-- ==== Sys2Proof/Word.lean ====
section
/-! DEFINITION. The byte and byte sequences (00_scope.md R9, R10). -/

namespace Sys2Proof

/-- A byte: an unsigned integer 0..255 (R9). -/
abbrev Byte := BitVec 8

/-- A byte sequence in transmission order, the oldest byte first (R9, R10, R64). -/
abbrev Bytes := List Byte

/-- `sum(s)`: the integer sum of the elements, unbounded, no wrap (R10). -/
def byteSum : Bytes → Nat
  | [] => 0
  | b :: s => b.toNat + byteSum s

end Sys2Proof
end

