-- ==== Sys2Proof/Config.lean ====
section
/-! DEFINITION. The implementation parameters (00_scope.md R7, 20_memory.md R63), the fixed constants, and the values the
spec leaves free, as constants without a body. -/

namespace Sys2Proof

/-- The `parameter` rows of R7, and the size of the raw port's pattern store (R63).
"A model takes the `parameter` rows as arguments (a configuration record)". -/
structure Config where
  /-- `TICK_MS`: the tick period in milliseconds (R7, D40). -/
  tickMs : Nat
  /-- `CANCEL_WAIT_MS`: the "wait briefly" of the cancel sub-procedure (R7, D23). -/
  cancelWaitMs : Nat
  /-- `Q_DEPTH`: capacity of the pending-read queue (R7, D8). -/
  qDepth : Nat
  /-- `ACC_CAP`: capacity of the accumulation buffer, `none` for the unbounded buffer of the reference model (R7, D9). -/
  accCap : Option Nat
  /-- `CMD_CAP`: the largest command length `EXEC` accepts (R7, D26). -/
  cmdCap : Nat
  /-- `W_TIME`: width of the time counter `NOW`, `none` for the unbounded natural number of the reference model (R7, R21). -/
  wTime : Option Nat
  /-- The pattern store of the raw port: 265 bytes, or up to 65535 "if the implementation allows" (R63). -/
  rawPatCap : Nat
deriving DecidableEq, Repr

/-- The ranges R7 and R63 give the parameters. -/
abbrev Config.Legal (c : Config) : Prop :=
  1 ≤ c.tickMs ∧ 1 ≤ c.qDepth ∧ (c.accCap.all fun n => decide (281 ≤ n)) = true ∧ c.cmdCap ≤ 65535 ∧
    265 ≤ c.rawPatCap ∧ c.rawPatCap ≤ 65535

/-- The example values of 95_test_vectors.md: `TICK_MS` 10, `CANCEL_WAIT_MS` 20, `Q_DEPTH` 4, `ACC_CAP` unbounded,
`CMD_CAP` 65535; `W_TIME` is the unbounded one of the reference model, the pattern store the 265 bytes of R63.
DESIGN CHOICE (unsafe, log 1): "These values are examples", and a claim must hold for every legal `Config`. -/
def Config.vectors : Config :=
  { tickMs := 10, cancelWaitMs := 20, qDepth := 4, accCap := none, cmdCap := 65535, wTime := none, rawPatCap := 265 }

/-- `MAX_RESP_LEN` = 265, a fixed constant (R7). -/
def maxRespLen : Nat := 265

/-- `EXT_THRESHOLD` = 255: the extended form is used above it (R7). -/
def extThreshold : Nat := 255

/-- The largest length two length bytes hold (R112). -/
def maxExtLen : Nat := 65535

/-- The pattern store of the sequencer's port: 265 bytes per validator (R63). -/
def seqPatCap : Nat := 265

/-- The default of `TIMEOUT_MS` (R7, R41). -/
def timeoutDefault : BitVec 32 := 1000

/-- FREE VALUE (log 6): what a `W_TIME`-bit register holds when a time does not fit it. The spec assumes that it does not happen
(R21, R130) and gives no value. Applied to the width and the exact time. -/
opaque Config.freeTime : Nat → Nat → Nat

/-- FREE VALUE (log 4): a predicate of which only the identity is known (R106), "a total function from byte sequences to
booleans" (R26). A claim holds for every such family of functions. -/
opaque Config.userPred : Nat → Bytes → Bool

/-- FREE VALUE (log 5): what `RES.BODY` holds after a failed transaction: "unspecified" (R40), "any value" (U8).
Applied to the counter `State.free`, so that each failure has a value of its own. -/
opaque Config.freeBody : Nat → Bytes

end Sys2Proof
end

