-- ==== Sys2Proof/Syntax.lean ====
section
/-! DEFINITION. The names and records the operations carry, the events, and the ONE inductive `Instr`: a constructor for each
row of spec/opcode_table.json. -/

namespace Sys2Proof

/-- `ST`, the sequencer state (10_state.md R30). Code 7 is unreachable and has no name. -/
inductive SeqState where
  | idle | wAck | wHdr | wExt | wBody | wTrl | cancelWait
deriving DecidableEq, Repr

/-- The failure tags (60_exceptions.md R270). Code 7 is never produced and has no name. -/
inductive Tag where
  | ok | noAck | noValidMessage | responseChecksumError | responseTooLong | checkFailed | timeout
deriving DecidableEq, Repr

/-- The status codes of a queue completion, which are also the cause codes (R271): `ok` is cause `none`. -/
inductive Status where
  | ok | timeout | checkFailed
deriving DecidableEq, Repr

/-- `Q[i].cid`, the completion route (R28): the sequencer, or the raw port with its 16-bit ticket. -/
inductive Cid where
  | seq
  | raw (ticket : BitVec 16)
deriving DecidableEq, Repr

/-- A predicate `f` of `PRED(f)` (R26), written out as a term, since State is plain data (log 4). Every total function on the
buffers up to any length is one of these terms (`EveryPredicateIsHeld`); `user` is a predicate known by its identity only. -/
inductive Pred where
  /-- true of every buffer -/
  | always
  /-- `b[start .. start+len(p)) = p`, "compared only if the body is long enough" (R253) -/
  | slice (start : Nat) (p : Bytes)
  /-- `len(b) = n` -/
  | lengthIs (n : Nat)
  /-- `len(b) = b[i] + k`, false where there is no `b[i]` (R251) -/
  | lengthByte (i k : Nat)
  | neg (f : Pred)
  | both (f g : Pred)
  | either (f g : Pred)
  /-- known by its identity only: a free function -/
  | user (n : Nat)
deriving DecidableEq, Repr

/-- A validator (R26): `NONE`, `EXACT(p)`, `PRED(f)`, the predicate held as a term (log 4). -/
inductive Validator where
  | none
  | exact (p : Bytes)
  | pred (f : Pred)
deriving DecidableEq, Repr

/-- The validator operand of the host port (R106): kinds 0, 1, 2, and the reserved kind 3 (R107). -/
inductive VArg where
  | none
  | exact (p : Bytes)
  | pred (f : Pred)
  | reserved
deriving DecidableEq, Repr

/-- The direction of a frame (R90, R94, R95). -/
inductive Dir where
  | toReader
  | toHost
deriving DecidableEq, Repr

/-- The host command channel (R106): the 4-bit code and the operand fields. An operation reads the fields R106 gives it and
no others (log 18). -/
structure HostCmd where
  /-- `cmd_op` -/
  op : BitVec 4
  /-- validator kind: 0 NONE, 1 EXACT, 2 PRED, 3 reserved -/
  vkind : BitVec 2
  /-- EXACT: the pattern bytes -/
  pattern : Bytes
  /-- PRED: the predicate -/
  pred : Pred
  /-- EXEC: the command bytes -/
  cmd : Bytes
  /-- ENQ: the byte count -/
  count : BitVec 16
  /-- ENQ: the timeout in ms; CFGW: the value for `TIMEOUT_MS` -/
  value : BitVec 32
deriving DecidableEq, Repr

/-- The events (00_scope.md R14), and the two steps of the environment model (R298). -/
inductive Event where
  /-- the host presents one operation (R235) -/
  | host (h : HostCmd)
  /-- the transport delivers a chunk (R154) -/
  | rx (c : Bytes)
  /-- the tick timer fires (R200) -/
  | tick
  /-- environment: the reader produces bytes, appended to `TPEND` (R298) -/
  | reader (bs : Bytes)
  /-- environment: the transport delivers the first `n` bytes of `TPEND` as a chunk (R298) -/
  | deliver (n : Nat)
deriving DecidableEq, Repr

/-- What can carry an encoded row of the table: an event, a frame sent toward the reader, or a piece read at a receive stage
(with the declared length that `W_BODY` uses, R101). -/
inductive Code where
  | event (e : Event)
  | sent (bytes : Bytes)
  | piece (st : SeqState) (rlen : BitVec 16) (bytes : Bytes)
deriving DecidableEq, Repr

/-- One constructor for each of the 50 rows of spec/opcode_table.json. -/
inductive Instr where
  -- frames (R92 to R95)
  | frameNormal (d : Dir) (p : Bytes)
  | frameExtended (d : Dir) (p : Bytes)
  | frameAck
  | frameCancel
  -- receive-stage patterns (R101 to R103)
  | rxAck
  | rxHdrExt
  | rxHdrNormal (len lcs : Byte)
  | rxHdrBad (b0 b1 b2 b3 b4 : Byte)
  | rxExt (hi lo lcs : Byte)
  | rxBody (p : Bytes)
  | rxTrl (dcs : Byte)
  -- host operations (R106)
  | nop
  | exec (cmd : Bytes) (v : VArg)
  | hostEnq (n : BitVec 16) (v : VArg) (t : BitVec 32)
  | cfgw (value : BitVec 32)
  | reset
  -- reserved codes (R107)
  | reserved4 | reserved5 | reserved6 | reserved7 | reserved8 | reserved9
  | reservedA | reservedB | reservedC | reservedD | reservedE
  -- environment events (R154, R200)
  | rxb (c : Bytes)
  | tick
  -- queue operations (R151, R153, R155, R156)
  | svc
  | val (v : Validator) (b : Bytes)
  | aclr
  | enq (n : Nat) (v : Validator) (t : BitVec 32) (cid : Cid)
  -- reactions and the cancel sub-procedure (R184 to R188, R196 to R198)
  | sAck (status : Status) (bytes : Bytes)
  | sHdr (status : Status) (bytes : Bytes)
  | sExt (status : Status) (bytes : Bytes)
  | sBody (status : Status) (bytes : Bytes)
  | sTrl (status : Status) (bytes : Bytes)
  | finishOk
  | cancelBegin (tag : Tag) (cause : Status)
  | cancelFinish
  -- codec functions (R121 to R129)
  | csum (s : Bytes)
  | encn (p : Bytes)
  | encx (p : Bytes)
  | enc (p : Bytes)
  | isack (s : Bytes)
  | dech (h : Bytes)
  | decx (e : Bytes)
  | chkt (b t : Bytes)
  | decf (f : Bytes)
deriving DecidableEq, Repr

end Sys2Proof
end

