-- ==== Sys2Proof/Machine/Codec.lean ====
section
/-! DEFINITION. The frame codec `FC` (40_frame_codec.md): pure functions on byte sequences, used by the decoder, the encoder
and the machine. -/

namespace Sys2Proof

/-- `PREAMBLE` (R7, R91). -/
def preamble : Bytes := [0x00, 0x00, 0xFF]

/-- The ACK frame (R94). -/
def ackFrame : Bytes := [0x00, 0x00, 0xFF, 0x00, 0xFF, 0x00]

/-- The cancel frame, "same 6 bytes" as the ACK (R95, R283). -/
def cancelFrame : Bytes := [0x00, 0x00, 0xFF, 0x00, 0xFF, 0x00]

/-- `CSUM(s) = (0 - sum(s)) mod 256` (R12, R121). -/
def csum (s : Bytes) : Byte := BitVec.ofNat 8 (256 - byteSum s % 256)

/-- `ENCN(P)` (R92, R122), for payloads of at most 255 bytes. -/
def encn (p : Bytes) : Bytes :=
  [0x00, 0x00, 0xFF, BitVec.ofNat 8 p.length, csum [BitVec.ofNat 8 p.length]] ++ p ++ [csum p, 0x00]

/-- `LEN_HI = n[15:8]` (R65, R97). -/
def lenHi (n : Nat) : Byte := BitVec.ofNat 8 (n / 256)

/-- `LEN_LO = n[7:0]` (R65, R97). -/
def lenLo (n : Nat) : Byte := BitVec.ofNat 8 n

/-- `ENCX(P)` (R93, R123), for payloads of at most 65535 bytes. UNVERIFIED by the source (U1, log 17). -/
def encx (p : Bytes) : Bytes :=
  [0x00, 0x00, 0xFF, 0xFF, 0xFF, lenHi p.length, lenLo p.length, csum [lenHi p.length, lenLo p.length]] ++ p ++
    [csum p, 0x00]

/-- `ENC(P)`: the form chosen by payload length alone (R100, R124). -/
def enc (p : Bytes) : Bytes := if p.length > extThreshold then encx p else encn p

/-- `ISACK(s)`: exact match (R125). -/
def isack (s : Bytes) : Bool := decide (s = ackFrame)

/-- The record `DECH` returns (R126). -/
structure Header where
  preOk : Bool
  extended : Bool
  lcsOk : Bool
  /-- no value when the header is extended (R126, C7) -/
  declaredLen : Option Byte
deriving DecidableEq, Repr

/-- `DECH(h)` for five bytes (R102, R126). On another length R126 gives no function (U7): the verdict here is the failing one,
never reached by a run (log 11). -/
def dech : Bytes → Header
  | [b0, b1, b2, b3, b4] =>
    let extended := decide (b3 = 0xFF ∧ b4 = 0xFF)
    { preOk := decide ([b0, b1, b2] = preamble)
      extended := extended
      lcsOk := extended || decide ((b3.toNat + b4.toNat) % 256 = 0)
      declaredLen := if extended then none else some b3 }
  | _ => { preOk := false, extended := false, lcsOk := false, declaredLen := none }

/-- The record `DECX` returns (R127). -/
structure ExtLen where
  lcsOk : Bool
  len : BitVec 16
deriving DecidableEq, Repr

/-- `DECX(e)` for three bytes (R97, R127), the length big-endian and exact in 16 bits (R65, R130).
On another length R127 gives no function (U7): the verdict here is the failing one, never reached by a run (log 11). -/
def decx : Bytes → ExtLen
  | [e0, e1, e2] =>
    { lcsOk := decide ((e0.toNat + e1.toNat + e2.toNat) % 256 = 0)
      len := BitVec.ofNat 16 (256 * e0.toNat + e1.toNat) }
  | _ => { lcsOk := false, len := 0 }

/-- `CHKT(B, t)`: the trailer is the body's DCS and `00` (R98, R99, R128). -/
def chkt (body t : Bytes) : Bool := decide (t = [csum body, 0x00])

/-- The kinds of `ERR` that `DECF` returns (R129). -/
inductive DecfErr where
  | short | badPreamble | lcs | tooLong | dcs | trailing
deriving DecidableEq, Repr

/-- `OK(P)` or `ERR(kind)` (R129). -/
inductive DecfResult where
  | ok (p : Bytes)
  | err (e : DecfErr)
deriving DecidableEq, Repr

/-- The last tests of `DECF` (R129), once the length `n` and the payload's offset `o` are known. -/
def decfTail (limit n o : Nat) (f : Bytes) : DecfResult :=
  if limit < n then .err .tooLong
  else if f.length < o + n + 2 then .err .short
  else if chkt ((f.drop o).take n) ((f.drop (o + n)).take 2) = false then .err .dcs
  else if o + n + 2 < f.length then .err .trailing
  else .ok ((f.drop o).take n)

/-- The tests of `DECF` in their order (R129), with the length limit as an argument. -/
def decfWith (limit : Nat) (f : Bytes) : DecfResult :=
  if f.length < 5 then .err .short
  else
    let d := dech (f.take 5)
    if d.preOk = false then .err .badPreamble
    else if d.extended then
      if f.length < 8 then .err .short
      else
        let x := decx ((f.drop 5).take 3)
        if x.lcsOk = false then .err .lcs else decfTail limit x.len.toNat 8 f
    else if d.lcsOk = false then .err .lcs
    else decfTail limit ((d.declaredLen.getD 0).toNat) 5 f

/-- `DECF(f)` (R129): the limit is 265. -/
def decf (f : Bytes) : DecfResult := decfWith maxRespLen f

end Sys2Proof
end

