-- ==== Sys2Proof/Machine/State.lean ====
section
/-! DEFINITION. The state of the machine as plain data (10_state.md R20 to R45), its reset value (R48), and the reasons a step
can stop. -/

namespace Sys2Proof.Machine

/-- An entry of the queue (R23 to R28). -/
structure Entry where
  /-- bytes still wanted (R24) -/
  need : Nat
  /-- bytes assembled so far, in arrival order (R25) -/
  acc : Bytes
  /-- the validator, fixed at enqueue (R26) -/
  v : Validator
  /-- set at enqueue to `NOW + timeout`, never changed (R27) -/
  deadline : Nat
  /-- the completion route (R28) -/
  cid : Cid
deriving DecidableEq, Repr

/-- The result record `RES` (R40). -/
structure Res where
  valid : Bool
  ok : Bool
  tag : Tag
  cause : Status
  stage : SeqState
  blen : BitVec 9
  body : Bytes
deriving DecidableEq, Repr

/-- `RES` with all fields 0 and `RES.BODY` empty (R48). -/
def Res.zero : Res :=
  { valid := false, ok := false, tag := .ok, cause := .ok, stage := .idle, blen := 0, body := [] }

/-- An item of the output trace `OUT` (R44). -/
inductive OutItem where
  | tx (b : Byte)
  | flush
deriving DecidableEq, Repr

/-- An item of the completion trace `EVT` (R45). -/
inductive EvtItem where
  | done (res : Res)
  | rawdone (ticket : BitVec 16) (status : Status) (bytes : Bytes)
deriving DecidableEq, Repr

/-- What `SVC` returns when a read ends (R150, R155). -/
structure Completion where
  cid : Cid
  status : Status
  bytes : Bytes
deriving DecidableEq, Repr

/-- The reasons of a refused host operation (R236). -/
inductive Reason where
  | badOp | active | tooLong | qFull
deriving DecidableEq, Repr

/-- What an operation hands back to whoever invoked it: the host port's answer (R235), or the value of an internal operation.
Not state of the block (log 3). -/
inductive Rsp where
  /-- nothing is returned -/
  | none
  /-- the host port: accepted -/
  | accepted
  /-- the host port: `ENQ` accepted, with its ticket -/
  | ticket (t : BitVec 16)
  /-- the host port: refused, with the reason -/
  | refused (r : Reason)
  /-- `CSUM` -/
  | byte (b : Byte)
  /-- `ENCN`, `ENCX`, `ENC` -/
  | bytes (s : Bytes)
  /-- `VAL`, `ISACK`, `CHKT` -/
  | verdict (b : Bool)
  /-- `DECH` -/
  | header (h : Header)
  /-- `DECX` -/
  | extLen (x : ExtLen)
  /-- `DECF` -/
  | decoded (r : DecfResult)
  /-- `SVC` -/
  | completion (c : Option Completion)
deriving DecidableEq, Repr

/-- The state: the block's own (R20), then what the model carries beside it. -/
structure State where
  /-- `NOW` (R21) -/
  now : Nat
  /-- `ACC` (R22) -/
  acc : Bytes
  /-- `Q` (R23) -/
  q : List Entry
  /-- `TKT` (R29) -/
  tkt : BitVec 16
  /-- `ACC_OVF` (R38) -/
  accOvf : Bool
  /-- `ST` (R30) -/
  st : SeqState
  /-- `CMD` (R31) -/
  cmd : Bytes
  /-- `CV` (R32) -/
  cv : Validator
  /-- `HDR` (R33) -/
  hdr : Bytes
  /-- `EXTB` (R34) -/
  extb : Bytes
  /-- `RLEN` (R35) -/
  rlen : BitVec 16
  /-- `EXTF` (R36) -/
  extf : Bool
  /-- `BODY` (R37) -/
  body : Bytes
  /-- `BDCS` (R37) -/
  bdcs : Byte
  /-- `FTAG` (R39) -/
  ftag : Tag
  /-- `FCAUSE` (R39) -/
  fcause : Status
  /-- `FSTAGE` (R39) -/
  fstage : SeqState
  /-- `CDL` (R39) -/
  cdl : Nat
  /-- `RES` (R40) -/
  res : Res
  /-- `TIMEOUT_MS` (R41) -/
  timeoutMs : BitVec 32
  /-- `OUT` (R44) -/
  out : List OutItem
  /-- `EVT` (R45) -/
  evt : List EvtItem
  /-- the parameters, which no operation writes (R43, log 1) -/
  cfg : Config
  /-- the events still to come, oldest first (R14, log 2) -/
  inq : List Event
  /-- what the last operation returned (R235, log 3) -/
  rsp : Rsp
  /-- `TPEND`, the environment's buffer (R298, log 15) -/
  tpend : Bytes
  /-- the counter of the free value of `RES.BODY` after a failure (U8, log 5) -/
  free : Nat
deriving DecidableEq, Repr

/-- The block right after reset with the parameters `c` (R48, R310): every field of R20 at the value R48 gives it, no event
waiting, nothing returned. -/
def State.resetWith (c : Config) : State :=
  { now := 0
    acc := []
    q := []
    tkt := 0
    accOvf := false
    st := .idle
    cmd := []
    cv := .none
    hdr := []
    extb := []
    rlen := 0
    extf := false
    body := []
    bdcs := 0x00
    ftag := .ok
    fcause := .ok
    fstage := .idle
    cdl := 0
    res := Res.zero
    timeoutMs := timeoutDefault
    out := []
    evt := []
    cfg := c
    inq := []
    rsp := .none
    tpend := []
    free := 0 }

/-- The machine right after reset. The state is R48's, the parameters are an example (log 1). -/
def State.reset : State := State.resetWith Config.vectors

/-- The faults. -/
inductive Fault where
  /-- `ACC_OVF` is set: the run is faulted (R38, R162, R276, U9). No step answers with it: the flag "ends nothing by itself"
  (R276) and the block goes on; `faultOf` in Safety.lean reads it from a state. Safe. -/
  | accOvf
deriving DecidableEq, Repr

/-- The refusals. -/
inductive Refusal where
  /-- an instruction without a meaning, rejected by its arm of `exec`. Safe. -/
  | notModelled (mnemonic : String)
  /-- raised by a codec operation, a frame row or `S.HDR` and `S.EXT` on operands outside the domain of the codec function:
  the function "has no value" there (R122, R123), or the spec's treatment is `refuse` (U7). No event of the block leads
  here (log 10). Safe. -/
  | codecDomain
deriving DecidableEq, Repr

end Sys2Proof.Machine
end

