-- ==== Sys2Proof/Machine/Flags.lean ====
section
/-! DEFINITION. The derived status flags (R42), the numeric codes (R30, R236, R270, R271), and what the host reads (R234). -/

namespace Sys2Proof.Machine

/-- `Q_EMPTY` (R42). -/
def State.qEmpty (s : State) : Bool := decide (s.q.length = 0)

/-- `Q_FULL` (R42). -/
def State.qFull (s : State) : Bool := decide (s.q.length = s.cfg.qDepth)

/-- `TXN_ACTIVE` (R42). -/
def State.txnActive (s : State) : Bool := decide (s.st ≠ .idle)

/-- The codes of `ST` (R30). -/
def stCode : SeqState → BitVec 3
  | .idle => 0
  | .wAck => 1
  | .wHdr => 2
  | .wExt => 3
  | .wBody => 4
  | .wTrl => 5
  | .cancelWait => 6

/-- The codes of the failure tags (R270). -/
def tagCode : Tag → BitVec 3
  | .ok => 0
  | .noAck => 1
  | .noValidMessage => 2
  | .responseChecksumError => 3
  | .responseTooLong => 4
  | .checkFailed => 5
  | .timeout => 6

/-- The codes of causes and queue statuses (R271). -/
def statusCode : Status → BitVec 2
  | .ok => 0
  | .timeout => 1
  | .checkFailed => 2

/-- The codes of the refusal reasons; 0 means accepted (R236). -/
def reasonCode : Reason → BitVec 3
  | .badOp => 1
  | .active => 2
  | .tooLong => 3
  | .qFull => 4

/-- The host port's answer as a code (R236): no code where the operation was not one of the host port. -/
def rspCode : Rsp → Option (BitVec 3)
  | .accepted => some 0
  | .ticket _ => some 0
  | .refused r => some (reasonCode r)
  | _ => none

/-- What the host can read (R234). -/
structure HostView where
  valid : Bool
  ok : Bool
  tag : BitVec 3
  cause : BitVec 2
  stage : BitVec 3
  blen : BitVec 9
  /-- `RES.BODY[0..RES.BLEN)` -/
  body : Bytes
  timeoutMs : BitVec 32
  accOvf : Bool
  qEmpty : Bool
  qFull : Bool
  txnActive : Bool
deriving DecidableEq, Repr

/-- The host's view of a state: "While `RES.VALID = 0` the other fields of `RES` read as 0" (R234). -/
def hostView (s : State) : HostView :=
  let r := if s.res.valid then s.res else Res.zero
  { valid := r.valid
    ok := r.ok
    tag := tagCode r.tag
    cause := statusCode r.cause
    stage := stCode r.stage
    blen := r.blen
    body := r.body.take r.blen.toNat
    timeoutMs := s.timeoutMs
    accOvf := s.accOvf
    qEmpty := s.qEmpty
    qFull := s.qFull
    txnActive := s.txnActive }

/-- The five waiting states (R203). -/
def waiting : SeqState → Bool
  | .wAck => true
  | .wHdr => true
  | .wExt => true
  | .wBody => true
  | .wTrl => true
  | .idle => false
  | .cancelWait => false

end Sys2Proof.Machine
end

