-- ==== Sys2Proof/Machine/Operands.lean ====
section
/-! DEFINITION. The operand forms: validators, their evaluation, and the loading of a validator operand into a pattern store. -/

namespace Sys2Proof.Machine

/-- `f(b)`: a predicate applied to the full assembled buffer (R26, R151, log 4). -/
def evalPred : Pred → Bytes → Bool
  | .always, _ => true
  | .slice start p, b => decide ((b.drop start).take p.length = p)
  | .lengthIs n, b => decide (b.length = n)
  | .lengthByte i k, b =>
    match b[i]? with
    | none => false
    | some x => decide (b.length = x.toNat + k)
  | .neg f, b => !evalPred f b
  | .both f g, b => evalPred f b && evalPred g b
  | .either f g, b => evalPred f b || evalPred g b
  | .user n, b => Config.userPred n b

/-- `VAL(v, b)` (R151). -/
def evalValidator : Validator → Bytes → Bool
  | .none, _ => true
  | .exact p, b => decide (b = p)
  | .pred f, b => evalPred f b

/-- `V_ACK`, the validator of the ACK read (R183). -/
def vAck : Validator := .exact ackFrame

/-- `V_PFX`, the validator of the header read: `pfx(b) = (b[0..3) = [00, 00, FF])` (R183). -/
def vPfx : Validator := .pred (.slice 0 preamble)

/-- A validator operand loaded into a pattern store of `cap` bytes: no validator for the reserved kind (R107) and for a
pattern longer than the store (R63), which the port refuses with `BAD_OP` (R152, R182, R236). -/
def loadValidator (cap : Nat) : VArg → Option Validator
  | .none => some .none
  | .exact p => if p.length ≤ cap then some (.exact p) else none
  | .pred f => some (.pred f)
  | .reserved => none

end Sys2Proof.Machine
end

