-- ==== Sys2Proof/Machine/Ops.lean ====
section
/-! DEFINITION. The shared operations over the buffers, the queue, the sequencer and the traces. Failing a transaction is ONE
operation, `cancelBegin`; its return, `cancelFinish`, stands beside it. -/

namespace Sys2Proof.Machine

/-- What an operation returns (log 3). -/
def answer (r : Rsp) (s : State) : State := { s with rsp := r }

/-! ### Time (R21, R292, R293) -/

/-- A time in a register of `NOW`'s type: exact where it fits `W_TIME` bits, which the spec assumes, and a free value of
`W_TIME` bits where it does not (R21, R130, log 6). -/
def timeValue (c : Config) (n : Nat) : Nat :=
  match c.wTime with
  | none => n
  | some w => if n < 2 ^ w then n else Config.freeTime w n % 2 ^ w

/-! ### The transport boundary (R44, R62, R296) -/

/-- `emit TX(b)` for each byte, in order (R44, R74). -/
def emitTx (bs : Bytes) (s : State) : State := { s with out := s.out ++ bs.map .tx }

/-- `emit FLUSH` (R44, R75): the transport discards its unread input (R298); `ACC` is not touched. -/
def emitFlush (s : State) : State := { s with out := s.out ++ [.flush], tpend := [] }

/-- `emit` on the completion trace (R45). -/
def emitEvt (e : EvtItem) (s : State) : State := { s with evt := s.evt ++ [e] }

/-! ### The accumulation buffer (R22) -/

/-- Free room in `ACC` for a chunk of `n` bytes: all of it when the buffer is unbounded (R7, R63). -/
def accRoom (s : State) (n : Nat) : Nat :=
  match s.cfg.accCap with
  | none => n
  | some cap => cap - s.acc.length

/-- `RXB(c)` (R154, R162): append, and on overflow append what fits, drop the rest and set `ACC_OVF`. -/
def receive (c : Bytes) (s : State) : State :=
  let room := accRoom s c.length
  { s with acc := s.acc ++ c.take room, accOvf := s.accOvf || decide (room < c.length) }

/-- `ACLR()` (R156). -/
def clearAcc (s : State) : State := { s with acc := [] }

/-! ### The pending-read queue (R150 to R157) -/

/-- `enq(n, v, t, cid)` (R153): the deadline runs from `NOW`. -/
def enqueue (n : Nat) (v : Validator) (t : BitVec 32) (cid : Cid) (s : State) : State :=
  { s with q := s.q ++ [{ need := n, acc := [], v := v, deadline := timeValue s.cfg (s.now + t.toNat), cid := cid }] }

/-- A read of the sequencer: timeout `TIMEOUT_MS` as it stands, route `SEQ` (R41, R183). -/
def seqRead (n : Nat) (v : Validator) (s : State) : State := enqueue n v s.timeoutMs .seq s

/-- The completion of a satisfied read (R155): the validator sees the full assembled buffer. -/
def satisfied (e : Entry) (bytes : Bytes) : Completion :=
  if evalValidator e.v bytes then { cid := e.cid, status := .ok, bytes := bytes }
  else { cid := e.cid, status := .checkFailed, bytes := [] }

/-- `SVC()` (R155): the head takes bytes, then satisfaction is tested, then the deadline. -/
def service (s : State) : State × Option Completion :=
  match s.q with
  | [] => (s, none)
  | e :: rest =>
    let k := min e.need s.acc.length
    let got := e.acc ++ s.acc.take k
    let acc := s.acc.drop k
    if e.need - k = 0 then ({ s with acc := acc, q := rest }, some (satisfied e got))
    else if e.deadline ≤ s.now then
      ({ s with acc := acc, q := rest }, some { cid := e.cid, status := .timeout, bytes := [] })
    else ({ s with acc := acc, q := { e with need := e.need - k, acc := got } :: rest }, none)

/-! ### Failing a transaction, and the return from it (R196, R197, R282, R285) -/

/-- `CANCEL.BEGIN(tag, cause)`, what `raise Fail(tag, cause)` does (R196, R282). -/
def cancelBegin (tag : Tag) (cause : Status) (s : State) : State :=
  { emitTx cancelFrame s with
    ftag := tag
    fcause := cause
    fstage := s.st
    cdl := timeValue s.cfg (s.now + s.cfg.cancelWaitMs)
    st := .cancelWait }

/-- What `RES.BODY` holds after a failure: a free value of at most 265 bytes (R40, U8, log 5). -/
def failedBody (k : Nat) : Bytes := (Config.freeBody k).take maxRespLen

/-- The record of a failed transaction (R197). -/
def failedRes (s : State) : Res :=
  { valid := true, ok := false, tag := s.ftag, cause := s.fcause, stage := s.fstage, blen := 0, body := failedBody s.free }

/-- `CANCEL.FINISH()` (R197, R285). -/
def cancelFinish (s : State) : State :=
  { emitEvt (.done (failedRes s)) (clearAcc (emitFlush s)) with
    res := failedRes s
    st := .idle
    free := s.free + 1 }

/-! ### Starting and finishing a transaction (R182, R198) -/

/-- The accepted part of `EXEC(cmd, v)` (R182). -/
def startTxn (cmd : Bytes) (v : Validator) (s : State) : State :=
  let s1 := { s with
    res := Res.zero
    cmd := cmd
    cv := v
    hdr := []
    extb := []
    rlen := 0
    extf := false
    body := []
    bdcs := 0x00 }
  { seqRead 6 vAck (emitTx (enc cmd) (emitFlush s1)) with st := .wAck }

/-- The record of a successful transaction (R198). -/
def okRes (s : State) : Res :=
  { valid := true, ok := true, tag := .ok, cause := .ok, stage := .idle, blen := BitVec.ofNat 9 s.body.length, body := s.body }

/-- `finish_ok()` (R198). -/
def finishOk (s : State) : State :=
  { emitEvt (.done (okRes s)) s with res := okRes s, st := .idle }

/-! ### The reactions (R184 to R188) -/

/-- `S.ACK(status, bytes)` (R184). -/
def reactAck (status : Status) (_bytes : Bytes) (s : State) : State :=
  match status with
  | .ok => { seqRead 5 vPfx s with st := .wHdr }
  | .timeout => cancelBegin .noAck .timeout s
  | .checkFailed => cancelBegin .noAck .checkFailed s

/-- `S.HDR` once the header is captured: marker test, then LCS test (R102, R185). -/
def headerSeen (bytes : Bytes) (s : State) : State :=
  let d := dech bytes
  let s1 := { s with hdr := bytes, extf := d.extended }
  if d.extended then { seqRead 3 .none s1 with st := .wExt }
  else if d.lcsOk = false then cancelBegin .responseChecksumError .ok s1
  else
    let rlen := (d.declaredLen.getD 0).setWidth 16
    { seqRead rlen.toNat .none { s1 with rlen := rlen } with st := .wBody }

/-- `S.HDR(status, bytes)` (R185). -/
def reactHdr (status : Status) (bytes : Bytes) (s : State) : State :=
  match status with
  | .ok => headerSeen bytes s
  | .timeout => cancelBegin .noValidMessage .timeout s
  | .checkFailed => cancelBegin .noValidMessage .checkFailed s

/-- `S.EXT` once the three bytes are captured: checksum test, then the 265 test (R186). -/
def extSeen (bytes : Bytes) (s : State) : State :=
  let x := decx bytes
  let s1 := { s with extb := bytes }
  if x.lcsOk = false then cancelBegin .responseChecksumError .ok s1
  else
    let s2 := { s1 with rlen := x.len }
    if maxRespLen < x.len.toNat then cancelBegin .responseTooLong .ok s2
    else { seqRead x.len.toNat .none s2 with st := .wBody }

/-- `S.EXT(status, bytes)` (R186): any status but `ok` is a timeout. -/
def reactExt (status : Status) (bytes : Bytes) (s : State) : State :=
  match status with
  | .ok => extSeen bytes s
  | .timeout => cancelBegin .timeout .timeout s
  | .checkFailed => cancelBegin .timeout .timeout s

/-- `S.BODY(status, bytes)` (R187). -/
def reactBody (status : Status) (bytes : Bytes) (s : State) : State :=
  match status with
  | .ok => { seqRead 2 .none { s with body := bytes, bdcs := csum bytes } with st := .wTrl }
  | .timeout => cancelBegin .timeout .timeout s
  | .checkFailed => cancelBegin .timeout .timeout s

/-- `S.TRL` with the two bytes read: the trailer against `BDCS`, then the caller's validator on the body (R188). -/
def trailerSeen (bytes : Bytes) (s : State) : State :=
  if bytes ≠ [s.bdcs, 0x00] then cancelBegin .responseChecksumError .ok s
  else if evalValidator s.cv s.body = false then cancelBegin .checkFailed .ok s
  else finishOk s

/-- `S.TRL(status, bytes)` (R188). -/
def reactTrl (status : Status) (bytes : Bytes) (s : State) : State :=
  match status with
  | .ok => trailerSeen bytes s
  | .timeout => cancelBegin .timeout .timeout s
  | .checkFailed => cancelBegin .timeout .timeout s

/-- The `case ST of` of R200: the reaction of the stage, and none in `IDLE` and `CANCEL_WAIT` (log 9). -/
def react (status : Status) (bytes : Bytes) (s : State) : State :=
  match s.st with
  | .wAck => reactAck status bytes s
  | .wHdr => reactHdr status bytes s
  | .wExt => reactExt status bytes s
  | .wBody => reactBody status bytes s
  | .wTrl => reactTrl status bytes s
  | .idle => s
  | .cancelWait => s

/-- An operation of the sequencer in the stage that invokes it; in another stage nothing reacts (R181, log 9). -/
def inStage (st : SeqState) (f : State → State) (s : State) : State := if s.st = st then f s else s

/-! ### The tick (R157, R200) -/

/-- Completion delivery (R157). -/
def deliver (c : Option Completion) (s : State) : State :=
  match c with
  | none => s
  | some { cid := .raw t, status := status, bytes := bytes } => emitEvt (.rawdone t status bytes) s
  | some { cid := .seq, status := status, bytes := bytes } => react status bytes s

/-- `NOW <- NOW + TICK_MS` (R200, R292). -/
def advance (s : State) : State := { s with now := timeValue s.cfg (s.now + s.cfg.tickMs) }

/-- `TICK` (R200). -/
def tick (s : State) : State :=
  let served := service (advance s)
  let s1 := deliver served.2 served.1
  if s.st = .cancelWait ∧ s1.cdl ≤ s1.now then cancelFinish s1 else s1

/-! ### Reset (R230) -/

/-- `RESET` (R230, R311): what R48 lists; not the parameters, the transport's buffer, the coming events or the counter of the
free value (log 16). -/
def hardReset (s : State) : State :=
  { State.resetWith s.cfg with inq := s.inq, tpend := s.tpend, free := s.free }

/-! ### Host operations (R236) -/

/-- A refused operation changes no state and reports one reason (R15, R236). -/
def refuse (r : Reason) (s : State) : State := answer (.refused r) s

/-- `EXEC` (R182): the refusals in R236's order, or the start of the transaction. -/
def hostExec (cmd : Bytes) (v : VArg) (s : State) : State :=
  match loadValidator seqPatCap v with
  | none => refuse .badOp s
  | some v =>
    if s.st ≠ .idle then refuse .active s
    else if s.cfg.cmdCap < cmd.length then refuse .tooLong s
    else if s.cfg.qDepth ≤ s.q.length then refuse .qFull s
    else answer .accepted (startTxn cmd v s)

/-- `ENQ` (R152): the refusals in R236's order, or the raw read with its ticket. -/
def hostEnq (n : BitVec 16) (v : VArg) (t : BitVec 32) (s : State) : State :=
  match loadValidator s.cfg.rawPatCap v with
  | none => refuse .badOp s
  | some v =>
    if s.cfg.qDepth ≤ s.q.length then refuse .qFull s
    else answer (.ticket s.tkt) (enqueue n.toNat v t (.raw s.tkt) { s with tkt := s.tkt + 1 })

end Sys2Proof.Machine
end

