-- ==== Sys2Proof/Machine/CodecOps.lean ====
section
/-! DEFINITION. The codec functions as operations (R120 to R129): pure, so only the returned value changes (log 3).
Outside its stated domain a function has no value, or the spec's treatment is `refuse` (R122, R123, U7, log 10). -/

namespace Sys2Proof.Machine

/-- CSUM (R121). -/
def execCsum (s : Bytes) (σ : State) : Host.Outcome State Fault Refusal := .next (answer (.byte (csum s)) σ)

/-- ENCN (R122). -/
def execEncn (p : Bytes) (s : State) : Host.Outcome State Fault Refusal :=
  if p.length ≤ 255 then .next (answer (.bytes (encn p)) s) else .refused .codecDomain

/-- ENCX (R123). -/
def execEncx (p : Bytes) (s : State) : Host.Outcome State Fault Refusal :=
  if p.length ≤ maxExtLen then .next (answer (.bytes (encx p)) s) else .refused .codecDomain

/-- ENC (R124). -/
def execEnc (p : Bytes) (s : State) : Host.Outcome State Fault Refusal :=
  if p.length ≤ maxExtLen then .next (answer (.bytes (enc p)) s) else .refused .codecDomain

/-- ISACK (R125). -/
def execIsack (b : Bytes) (s : State) : Host.Outcome State Fault Refusal := .next (answer (.verdict (isack b)) s)

/-- DECH (R126). -/
def execDech (h : Bytes) (s : State) : Host.Outcome State Fault Refusal :=
  if h.length = 5 then .next (answer (.header (dech h)) s) else .refused .codecDomain

/-- DECX (R127). -/
def execDecx (e : Bytes) (s : State) : Host.Outcome State Fault Refusal :=
  if e.length = 3 then .next (answer (.extLen (decx e)) s) else .refused .codecDomain

/-- CHKT (R128). -/
def execChkt (b t : Bytes) (s : State) : Host.Outcome State Fault Refusal := .next (answer (.verdict (chkt b t)) s)

/-- DECF (R129). -/
def execDecf (f : Bytes) (s : State) : Host.Outcome State Fault Refusal := .next (answer (.decoded (decf f)) s)

end Sys2Proof.Machine
end

