-- ==== Sys2Proof/Machine/Events.lean ====
section
/-! DEFINITION. The events of the transport and of the tick timer (R14, R278). They are not operations of the host port and
nothing is answered. -/

namespace Sys2Proof.Machine

/-- RXB (R154, R162): accepted in every `ST`. -/
def execRxb (c : Bytes) (s : State) : Host.Outcome State Fault Refusal := .next (answer .none (receive c s))

/-- TICK (R200). -/
def execTick (s : State) : Host.Outcome State Fault Refusal := .next (answer .none (tick s))

end Sys2Proof.Machine
end

