-- ==== Sys2Proof/Machine/Frames.lean ====
section
/-! DEFINITION. The frame rows (R90 to R99): a frame that crosses the transport boundary. Toward the reader its bytes are
emitted as `TX` items (R62, R68, R74); toward the host they arrive as one chunk (R61, R154). DESIGN CHOICE (log 12). -/

namespace Sys2Proof.Machine

/-- The bytes of a frame cross the boundary. -/
def crossBoundary (d : Dir) (bytes : Bytes) (s : State) : Host.Outcome State Fault Refusal :=
  match d with
  | .toReader => .next (answer .none (emitTx bytes s))
  | .toHost => .next (answer .none (receive bytes s))

/-- FRAME.NORMAL (R92): `ENCN` has no value above 255 bytes (R122, log 10). -/
def execFrameNormal (d : Dir) (p : Bytes) (s : State) : Host.Outcome State Fault Refusal :=
  if p.length ≤ 255 then crossBoundary d (encn p) s else .refused .codecDomain

/-- FRAME.EXTENDED (R93): `ENCX` has no value above 65535 bytes (R123, log 10). DESIGN CHOICE (log 12): toward the reader R93 gives
256 to 65535 payload bytes, and the block sends no shorter extended frame (R112); the row run on a shorter payload emits the
frame `ENCX` gives it. -/
def execFrameExtended (d : Dir) (p : Bytes) (s : State) : Host.Outcome State Fault Refusal :=
  if p.length ≤ maxExtLen then crossBoundary d (encx p) s else .refused .codecDomain

/-- FRAME.ACK (R94): from the reader. -/
def execFrameAck (s : State) : Host.Outcome State Fault Refusal := crossBoundary .toHost ackFrame s

/-- FRAME.CANCEL (R95): toward the reader. -/
def execFrameCancel (s : State) : Host.Outcome State Fault Refusal := crossBoundary .toReader cancelFrame s

end Sys2Proof.Machine
end

