-- ==== Sys2Proof/Machine/HostPort.lean ====
section
/-! DEFINITION. The host operations (R106). Each is answered in the same event: accepted, a ticket, or a refusal (R235). -/

namespace Sys2Proof.Machine

/-- NOP (R233): changes nothing, emits nothing, is never refused. -/
def execNop (s : State) : Host.Outcome State Fault Refusal := .next (answer .accepted s)

/-- EXEC (R182). -/
def execExec (cmd : Bytes) (v : VArg) (s : State) : Host.Outcome State Fault Refusal := .next (hostExec cmd v s)

/-- ENQ (R152). -/
def execHostEnq (n : BitVec 16) (v : VArg) (t : BitVec 32) (s : State) : Host.Outcome State Fault Refusal :=
  .next (hostEnq n v t s)

/-- CFGW (R232): accepted in every state. -/
def execCfgw (value : BitVec 32) (s : State) : Host.Outcome State Fault Refusal :=
  .next (answer .accepted { s with timeoutMs := value })

/-- RESET (R230): accepted in every state. -/
def execReset (s : State) : Host.Outcome State Fault Refusal := .next (answer .accepted (hardReset s))

end Sys2Proof.Machine
end

