-- ==== Sys2Proof/Machine/Queue.lean ====
section
/-! DEFINITION. The internal operations of the pending-read queue (R151, R153, R155, R156). -/

namespace Sys2Proof.Machine

/-- SVC (R155): returns the completion. -/
def execSvc (s : State) : Host.Outcome State Fault Refusal :=
  .next (answer (.completion (service s).2) (service s).1)

/-- VAL (R151): returns the verdict; no state changes. -/
def execVal (v : Validator) (b : Bytes) (s : State) : Host.Outcome State Fault Refusal :=
  .next (answer (.verdict (evalValidator v b)) s)

/-- ACLR (R156): `ACC` is emptied; `Q` and `ACC_OVF` stay. -/
def execAclr (s : State) : Host.Outcome State Fault Refusal := .next (answer .none (clearAcc s))

/-- enq (R153): "The caller has already checked that there is room"; invoked without room it adds nothing, since `Q` holds at
most `Q_DEPTH` entries (R23, log 9). -/
def execEnq (n : Nat) (v : Validator) (t : BitVec 32) (cid : Cid) (s : State) : Host.Outcome State Fault Refusal :=
  .next (answer .none (if s.q.length < s.cfg.qDepth then enqueue n v t cid s else s))

end Sys2Proof.Machine
end

