-- ==== Sys2Proof/Machine/Receive.lean ====
section
/-! DEFINITION. The receive-stage rows (R101 to R103): the reaction of the stage to a piece that has just been read, that is,
to the completion its read ended with. In another stage the piece is not read and nothing changes (log 9, log 13). -/

namespace Sys2Proof.Machine

/-- RX.ACK (R101, R184): six bytes equal to the ACK; go to `W_HDR`. -/
def execRxAck (s : State) : Host.Outcome State Fault Refusal :=
  .next (answer .none (inStage .wAck (reactAck .ok ackFrame) s))

/-- RX.HDR.EXT (R102, R185): the extended marker; go to `W_EXT`. -/
def execRxHdrExt (s : State) : Host.Outcome State Fault Refusal :=
  .next (answer .none (inStage .wHdr (reactHdr .ok (preamble ++ [0xFF, 0xFF])) s))

/-- RX.HDR.NORMAL (R102, R185): LEN and LCS. -/
def execRxHdrNormal (len lcs : Byte) (s : State) : Host.Outcome State Fault Refusal :=
  .next (answer .none (inStage .wHdr (reactHdr .ok (preamble ++ [len, lcs])) s))

/-- RX.HDR.BAD (R103, R185): five bytes without the preamble; the header read's validator `V_PFX` rejects them, and the
sequencer gets `check-failed` and no bytes. -/
def execRxHdrBad (b0 b1 b2 b3 b4 : Byte) (s : State) : Host.Outcome State Fault Refusal :=
  let c := satisfied { need := 0, acc := [], v := vPfx, deadline := 0, cid := .seq } [b0, b1, b2, b3, b4]
  .next (answer .none (inStage .wHdr (reactHdr c.status c.bytes) s))

/-- RX.EXT (R101, R186): LEN_HI, LEN_LO, LCS_EXT. -/
def execRxExt (hi lo lcs : Byte) (s : State) : Host.Outcome State Fault Refusal :=
  .next (answer .none (inStage .wExt (reactExt .ok [hi, lo, lcs]) s))

/-- RX.BODY (R101, R187): the piece is `RLEN` bytes; another number of bytes is not this piece. -/
def execRxBody (p : Bytes) (s : State) : Host.Outcome State Fault Refusal :=
  .next (answer .none (if p.length = s.rlen.toNat then inStage .wBody (reactBody .ok p) s else s))

/-- RX.TRL (R101, R188): DCS and `00`. -/
def execRxTrl (dcs : Byte) (s : State) : Host.Outcome State Fault Refusal :=
  .next (answer .none (inStage .wTrl (reactTrl .ok [dcs, 0x00]) s))

end Sys2Proof.Machine
end

