-- ==== Sys2Proof/Machine/Reserved.lean ====
section
/-! DEFINITION. The reserved host codes `0x4` to `0xE` (R107, R237): refused with `BAD_OP`, no state change, never executed as
some other operation and never a fault. -/

namespace Sys2Proof.Machine

/-- RESERVED_4 (R107, R237). -/
def execReserved4 (s : State) : Host.Outcome State Fault Refusal := .next (refuse .badOp s)

/-- RESERVED_5 (R107, R237). -/
def execReserved5 (s : State) : Host.Outcome State Fault Refusal := .next (refuse .badOp s)

/-- RESERVED_6 (R107, R237). -/
def execReserved6 (s : State) : Host.Outcome State Fault Refusal := .next (refuse .badOp s)

/-- RESERVED_7 (R107, R237). -/
def execReserved7 (s : State) : Host.Outcome State Fault Refusal := .next (refuse .badOp s)

/-- RESERVED_8 (R107, R237). -/
def execReserved8 (s : State) : Host.Outcome State Fault Refusal := .next (refuse .badOp s)

/-- RESERVED_9 (R107, R237). -/
def execReserved9 (s : State) : Host.Outcome State Fault Refusal := .next (refuse .badOp s)

/-- RESERVED_A (R107, R237). -/
def execReservedA (s : State) : Host.Outcome State Fault Refusal := .next (refuse .badOp s)

/-- RESERVED_B (R107, R237). -/
def execReservedB (s : State) : Host.Outcome State Fault Refusal := .next (refuse .badOp s)

/-- RESERVED_C (R107, R237). -/
def execReservedC (s : State) : Host.Outcome State Fault Refusal := .next (refuse .badOp s)

/-- RESERVED_D (R107, R237). -/
def execReservedD (s : State) : Host.Outcome State Fault Refusal := .next (refuse .badOp s)

/-- RESERVED_E (R107, R237). -/
def execReservedE (s : State) : Host.Outcome State Fault Refusal := .next (refuse .badOp s)

end Sys2Proof.Machine
end

