-- ==== Sys2Proof/Machine/Sequencer.lean ====
section
/-! DEFINITION. The internal operations of the sequencer (R184 to R188, R196 to R198), each in the stage that invokes it; in
another stage nothing reacts (R181, log 9). -/

namespace Sys2Proof.Machine

/-- S.ACK (R184). -/
def execSAck (status : Status) (bytes : Bytes) (s : State) : Host.Outcome State Fault Refusal :=
  .next (answer .none (inStage .wAck (reactAck status bytes) s))

/-- S.HDR (R185): with `ok` it applies `DECH` to the bytes, which are five (R126, U7, log 10). -/
def execSHdr (status : Status) (bytes : Bytes) (s : State) : Host.Outcome State Fault Refusal :=
  if status = .ok ∧ bytes.length ≠ 5 then .refused .codecDomain
  else .next (answer .none (inStage .wHdr (reactHdr status bytes) s))

/-- S.EXT (R186): with `ok` it applies `DECX` to the bytes, which are three (R127, U7, log 10). -/
def execSExt (status : Status) (bytes : Bytes) (s : State) : Host.Outcome State Fault Refusal :=
  if status = .ok ∧ bytes.length ≠ 3 then .refused .codecDomain
  else .next (answer .none (inStage .wExt (reactExt status bytes) s))

/-- S.BODY (R187). -/
def execSBody (status : Status) (bytes : Bytes) (s : State) : Host.Outcome State Fault Refusal :=
  .next (answer .none (inStage .wBody (reactBody status bytes) s))

/-- S.TRL (R188). -/
def execSTrl (status : Status) (bytes : Bytes) (s : State) : Host.Outcome State Fault Refusal :=
  .next (answer .none (inStage .wTrl (reactTrl status bytes) s))

/-- finish_ok (R198), from `W_TRL` (R181). -/
def execFinishOk (s : State) : Host.Outcome State Fault Refusal :=
  .next (answer .none (inStage .wTrl finishOk s))

/-- CANCEL.BEGIN (R196), from a waiting state (R181). -/
def execCancelBegin (tag : Tag) (cause : Status) (s : State) : Host.Outcome State Fault Refusal :=
  .next (answer .none (if waiting s.st then cancelBegin tag cause s else s))

/-- CANCEL.FINISH (R197), from `CANCEL_WAIT` and once `NOW >= CDL` (R181, R200). -/
def execCancelFinish (s : State) : Host.Outcome State Fault Refusal :=
  .next (answer .none (if s.cdl ≤ s.now then inStage .cancelWait cancelFinish s else s))

end Sys2Proof.Machine
end

