-- ==== Sys2Proof/Machine/Dispatch.lean ====
section
/-! DEFINITION. The dispatch: one arm per constructor of `Instr`, each one direct call of its meaning. -/

namespace Sys2Proof.Machine

def exec (i : Instr) (s : State) : Host.Outcome State Fault Refusal :=
  match i with
  | .frameNormal d p => Sys2Proof.Machine.execFrameNormal d p s
  | .frameExtended d p => Sys2Proof.Machine.execFrameExtended d p s
  | .frameAck => Sys2Proof.Machine.execFrameAck s
  | .frameCancel => Sys2Proof.Machine.execFrameCancel s
  | .rxAck => Sys2Proof.Machine.execRxAck s
  | .rxHdrExt => Sys2Proof.Machine.execRxHdrExt s
  | .rxHdrNormal len lcs => Sys2Proof.Machine.execRxHdrNormal len lcs s
  | .rxHdrBad b0 b1 b2 b3 b4 => Sys2Proof.Machine.execRxHdrBad b0 b1 b2 b3 b4 s
  | .rxExt hi lo lcs => Sys2Proof.Machine.execRxExt hi lo lcs s
  | .rxBody p => Sys2Proof.Machine.execRxBody p s
  | .rxTrl dcs => Sys2Proof.Machine.execRxTrl dcs s
  | .nop => Sys2Proof.Machine.execNop s
  | .exec cmd v => Sys2Proof.Machine.execExec cmd v s
  | .hostEnq n v t => Sys2Proof.Machine.execHostEnq n v t s
  | .cfgw value => Sys2Proof.Machine.execCfgw value s
  | .reset => Sys2Proof.Machine.execReset s
  | .reserved4 => Sys2Proof.Machine.execReserved4 s
  | .reserved5 => Sys2Proof.Machine.execReserved5 s
  | .reserved6 => Sys2Proof.Machine.execReserved6 s
  | .reserved7 => Sys2Proof.Machine.execReserved7 s
  | .reserved8 => Sys2Proof.Machine.execReserved8 s
  | .reserved9 => Sys2Proof.Machine.execReserved9 s
  | .reservedA => Sys2Proof.Machine.execReservedA s
  | .reservedB => Sys2Proof.Machine.execReservedB s
  | .reservedC => Sys2Proof.Machine.execReservedC s
  | .reservedD => Sys2Proof.Machine.execReservedD s
  | .reservedE => Sys2Proof.Machine.execReservedE s
  | .rxb c => Sys2Proof.Machine.execRxb c s
  | .tick => Sys2Proof.Machine.execTick s
  | .svc => Sys2Proof.Machine.execSvc s
  | .val v b => Sys2Proof.Machine.execVal v b s
  | .aclr => Sys2Proof.Machine.execAclr s
  | .enq n v t cid => Sys2Proof.Machine.execEnq n v t cid s
  | .sAck status bytes => Sys2Proof.Machine.execSAck status bytes s
  | .sHdr status bytes => Sys2Proof.Machine.execSHdr status bytes s
  | .sExt status bytes => Sys2Proof.Machine.execSExt status bytes s
  | .sBody status bytes => Sys2Proof.Machine.execSBody status bytes s
  | .sTrl status bytes => Sys2Proof.Machine.execSTrl status bytes s
  | .finishOk => Sys2Proof.Machine.execFinishOk s
  | .cancelBegin tag cause => Sys2Proof.Machine.execCancelBegin tag cause s
  | .cancelFinish => Sys2Proof.Machine.execCancelFinish s
  | .csum b => Sys2Proof.Machine.execCsum b s
  | .encn p => Sys2Proof.Machine.execEncn p s
  | .encx p => Sys2Proof.Machine.execEncx p s
  | .enc p => Sys2Proof.Machine.execEnc p s
  | .isack b => Sys2Proof.Machine.execIsack b s
  | .dech h => Sys2Proof.Machine.execDech h s
  | .decx e => Sys2Proof.Machine.execDecx e s
  | .chkt b t => Sys2Proof.Machine.execChkt b t s
  | .decf f => Sys2Proof.Machine.execDecf f s

end Sys2Proof.Machine
end

