-- ==== Sys2Proof/WellFormed.lean ====
section
/-! DEFINITION. Which instructions the spec gives: the operand lengths and ranges of each row, as one Bool. -/

namespace Sys2Proof

/-- A completion a reaction can be given (R184 to R188): with `ok` exactly `n` bytes, otherwise none
(a failed read delivers no bytes, R155), and `check-failed` only where the read carries a validator. -/
def completionWf (n : Nat) (validated : Bool) (status : Status) (bytes : Bytes) : Bool :=
  match status with
  | .ok => decide (bytes.length = n)
  | .timeout => decide (bytes = [])
  | .checkFailed => validated && decide (bytes = [])

/-- The domain of each row's operands. Limits the host port checks at run time (`CMD_CAP`, the pattern store, the reserved
validator kind) are no part of it: a command that exceeds them is an instruction, and is refused (R236). -/
def Instr.wf : Instr → Bool
  | .frameNormal _ p => decide (p.length ≤ 255)
  | .frameExtended .toReader p => decide (256 ≤ p.length) && decide (p.length ≤ 65535)
  | .frameExtended .toHost p => decide (p.length ≤ 265)
  | .frameAck => true
  | .frameCancel => true
  | .rxAck => true
  | .rxHdrExt => true
  | .rxHdrNormal len lcs => decide (¬ (len = 0xFF ∧ lcs = 0xFF))
  | .rxHdrBad b0 b1 b2 _ _ => decide ([b0, b1, b2] ≠ [0x00, 0x00, 0xFF])
  | .rxExt _ _ _ => true
  | .rxBody p => decide (p.length ≤ 265)
  | .rxTrl _ => true
  | .nop => true
  | .exec _ _ => true
  | .hostEnq _ _ _ => true
  | .cfgw _ => true
  | .reset => true
  | .reserved4 => true
  | .reserved5 => true
  | .reserved6 => true
  | .reserved7 => true
  | .reserved8 => true
  | .reserved9 => true
  | .reservedA => true
  | .reservedB => true
  | .reservedC => true
  | .reservedD => true
  | .reservedE => true
  | .rxb _ => true
  | .tick => true
  | .svc => true
  | .val _ _ => true
  | .aclr => true
  | .enq n _ _ _ => decide (n ≤ 65535)
  | .sAck status bytes => completionWf 6 true status bytes
  | .sHdr status bytes => completionWf 5 true status bytes
  | .sExt status bytes => completionWf 3 false status bytes
  | .sBody .ok bytes => decide (bytes.length ≤ 265)
  | .sBody .timeout bytes => decide (bytes = [])
  | .sBody .checkFailed _ => false
  | .sTrl status bytes => completionWf 2 false status bytes
  | .finishOk => true
  | .cancelBegin tag _ => decide (tag ≠ .ok)
  | .cancelFinish => true
  | .csum _ => true
  | .encn p => decide (p.length ≤ 255)
  | .encx p => decide (p.length ≤ 65535)
  | .enc p => decide (p.length ≤ 65535)
  | .isack _ => true
  | .dech h => decide (h.length = 5)
  | .decx e => decide (e.length = 3)
  | .chkt _ t => decide (t.length = 2)
  | .decf _ => true

end Sys2Proof
end

