-- ==== Sys2Proof/Decode.lean ====
section
/-! DEFINITION. The decoder, total on every code and rejecting by name; the encoder, from the same tables of the spec; and the
opcode table's own words. -/

namespace Sys2Proof

/-- Why a code is no row of the table. -/
inductive Reject where
  /-- a step of the environment model, not an operation of the block (R298) -/
  | environment
  /-- the bytes are no whole data frame, for the reason `DECF` gives (R129) -/
  | notAFrame (e : DecfErr)
  /-- the extended form with 255 bytes or fewer, which the encoder never produces (R112) -/
  | notCanonical
  /-- six bytes that are not the ACK, or another number of bytes (R103) -/
  | notTheAck
  /-- a piece of another length than its stage reads (R101) -/
  | pieceLength
  /-- a trailer whose second byte is not `00` (R99, R103) -/
  | badPostamble
  /-- no piece is read in `IDLE` and `CANCEL_WAIT` (R101) -/
  | noStage
deriving DecidableEq, Repr

/-- What decoding a code gives. -/
inductive Decoded where
  | ok (i : Instr)
  | rejected (r : Reject)
deriving DecidableEq, Repr

/-! ### The host command port (R106) -/

/-- The validator operand: a 2-bit kind and its fields (R106). -/
def decodeVArg (h : HostCmd) : VArg :=
  match h.vkind.toNat with
  | 0 => .none
  | 1 => .exact h.pattern
  | 2 => .pred h.pred
  | _ => .reserved

/-- The 4-bit code `cmd_op` (R106, R107). -/
def decodeHost (h : HostCmd) : Instr :=
  match h.op.toNat with
  | 0x0 => .nop
  | 0x1 => .exec h.cmd (decodeVArg h)
  | 0x2 => .hostEnq h.count (decodeVArg h) h.value
  | 0x3 => .cfgw h.value
  | 0x4 => .reserved4
  | 0x5 => .reserved5
  | 0x6 => .reserved6
  | 0x7 => .reserved7
  | 0x8 => .reserved8
  | 0x9 => .reserved9
  | 0xA => .reservedA
  | 0xB => .reservedB
  | 0xC => .reservedC
  | 0xD => .reservedD
  | 0xE => .reservedE
  | _ => .reset

/-! ### Frames on the wire (R90 to R100) -/

/-- The data-frame row of bytes whose payload is `p`: the form is told from offsets 3 and 4 (R100). -/
def dataFrame (d : Dir) (c p : Bytes) : Instr :=
  if (dech (c.take 5)).extended then .frameExtended d p else .frameNormal d p

/-- Bytes from the reader that are exactly one whole frame. -/
def decodeReceived (c : Bytes) : Decoded :=
  if isack c then .ok .frameAck
  else
    match decf c with
    | .ok p => .ok (dataFrame .toHost c p)
    | .err e => .rejected (.notAFrame e)

/-- A chunk: the row of the one frame it is, or else RXB (log 12). -/
def decodeChunk (c : Bytes) : Instr :=
  match decodeReceived c with
  | .ok i => i
  | .rejected _ => .rxb c

/-- Bytes toward the reader that are exactly one whole frame the block sends (R94, R95, R112). -/
def decodeSent (c : Bytes) : Decoded :=
  if c = cancelFrame then .ok .frameCancel
  else
    match decfWith maxExtLen c with
    | .ok p =>
      if (dech (c.take 5)).extended ∧ p.length ≤ extThreshold then .rejected .notCanonical
      else .ok (dataFrame .toReader c p)
    | .err e => .rejected (.notAFrame e)

/-! ### The receive stages (R101 to R103) -/

/-- The piece read at a stage. -/
def decodePiece (st : SeqState) (rlen : BitVec 16) (bytes : Bytes) : Decoded :=
  match st with
  | .wAck => if isack bytes then .ok .rxAck else .rejected .notTheAck
  | .wHdr =>
    match bytes with
    | [b0, b1, b2, b3, b4] =>
      if [b0, b1, b2] ≠ preamble then .ok (.rxHdrBad b0 b1 b2 b3 b4)
      else if b3 = 0xFF ∧ b4 = 0xFF then .ok .rxHdrExt
      else .ok (.rxHdrNormal b3 b4)
    | _ => .rejected .pieceLength
  | .wExt =>
    match bytes with
    | [hi, lo, lcs] => .ok (.rxExt hi lo lcs)
    | _ => .rejected .pieceLength
  | .wBody => if bytes.length = rlen.toNat then .ok (.rxBody bytes) else .rejected .pieceLength
  | .wTrl =>
    match bytes with
    | [dcs, post] => if post = 0x00 then .ok (.rxTrl dcs) else .rejected .badPostamble
    | _ => .rejected .pieceLength
  | .idle => .rejected .noStage
  | .cancelWait => .rejected .noStage

/-- The decoder. -/
def decode : Code → Decoded
  | .event (.host h) => .ok (decodeHost h)
  | .event (.rx c) => .ok (decodeChunk c)
  | .event .tick => .ok .tick
  | .event (.reader _) => .rejected .environment
  | .event (.deliver _) => .rejected .environment
  | .sent bytes => decodeSent bytes
  | .piece st rlen bytes => decodePiece st rlen bytes

/-! ### The encoder -/

/-- A host command whose operand fields are all 0, and the predicate the constant one. -/
def HostCmd.bare (op : BitVec 4) : HostCmd :=
  { op := op, vkind := 0, pattern := [], pred := .always, cmd := [], count := 0, value := 0 }

/-- The fields of a validator operand (R106). -/
def HostCmd.withVArg (h : HostCmd) : VArg → HostCmd
  | .none => { h with vkind := 0 }
  | .exact p => { h with vkind := 1, pattern := p }
  | .pred f => { h with vkind := 2, pred := f }
  | .reserved => { h with vkind := 3 }

/-- The code of an instruction, from the tables of R92 to R95, R101 and R106.
`none` for the internal operations, which have "no selecting bits" (R110). -/
def encode : Instr → Option Code
  | .frameNormal .toReader p => some (.sent (encn p))
  | .frameNormal .toHost p => some (.event (.rx (encn p)))
  | .frameExtended .toReader p => some (.sent (encx p))
  | .frameExtended .toHost p => some (.event (.rx (encx p)))
  | .frameAck => some (.event (.rx ackFrame))
  | .frameCancel => some (.sent cancelFrame)
  | .rxAck => some (.piece .wAck 0 ackFrame)
  | .rxHdrExt => some (.piece .wHdr 0 [0x00, 0x00, 0xFF, 0xFF, 0xFF])
  | .rxHdrNormal len lcs => some (.piece .wHdr 0 [0x00, 0x00, 0xFF, len, lcs])
  | .rxHdrBad b0 b1 b2 b3 b4 => some (.piece .wHdr 0 [b0, b1, b2, b3, b4])
  | .rxExt hi lo lcs => some (.piece .wExt 0 [hi, lo, lcs])
  | .rxBody p => some (.piece .wBody (BitVec.ofNat 16 p.length) p)
  | .rxTrl dcs => some (.piece .wTrl 0 [dcs, 0x00])
  | .nop => some (.event (.host (.bare 0x0)))
  | .exec cmd v => some (.event (.host { HostCmd.withVArg (.bare 0x1) v with cmd := cmd }))
  | .hostEnq n v t => some (.event (.host { HostCmd.withVArg (.bare 0x2) v with count := n, value := t }))
  | .cfgw value => some (.event (.host { HostCmd.bare 0x3 with value := value }))
  | .reset => some (.event (.host (.bare 0xF)))
  | .reserved4 => some (.event (.host (.bare 0x4)))
  | .reserved5 => some (.event (.host (.bare 0x5)))
  | .reserved6 => some (.event (.host (.bare 0x6)))
  | .reserved7 => some (.event (.host (.bare 0x7)))
  | .reserved8 => some (.event (.host (.bare 0x8)))
  | .reserved9 => some (.event (.host (.bare 0x9)))
  | .reservedA => some (.event (.host (.bare 0xA)))
  | .reservedB => some (.event (.host (.bare 0xB)))
  | .reservedC => some (.event (.host (.bare 0xC)))
  | .reservedD => some (.event (.host (.bare 0xD)))
  | .reservedE => some (.event (.host (.bare 0xE)))
  | .rxb c => some (.event (.rx c))
  | .tick => some (.event .tick)
  | .svc => none
  | .val _ _ => none
  | .aclr => none
  | .enq _ _ _ _ => none
  | .sAck _ _ => none
  | .sHdr _ _ => none
  | .sExt _ _ => none
  | .sBody _ _ => none
  | .sTrl _ _ => none
  | .finishOk => none
  | .cancelBegin _ _ => none
  | .cancelFinish => none
  | .csum _ => none
  | .encn _ => none
  | .encx _ => none
  | .enc _ => none
  | .isack _ => none
  | .dech _ => none
  | .decx _ => none
  | .chkt _ _ => none
  | .decf _ => none

/-! ### The opcode table's words (R110, D30) -/

/-- The `n` bytes of a number over a frame's leading part: "the first byte on the wire being the most significant byte of the
number" (R110). -/
def wireBytes : Nat → Nat → Bytes
  | 0, _ => []
  | n + 1, w => BitVec.ofNat 8 (w / 256 ^ n) :: wireBytes n w

/-- The code a word of the table stands for, its width naming what carries it (log 14): a host code, a two-byte trailer, the
three bytes of a preamble, a five-byte header, a six-byte frame. What follows the word is zeros. -/
def tableCode (nbits w : Nat) : Option Code :=
  if nbits ≤ 8 then some (.event (.host (.bare (BitVec.ofNat 4 w))))
  else if nbits = 16 then some (.piece .wTrl 0 (wireBytes 2 w))
  else if nbits = 24 then some (.event (.rx (wireBytes 3 w ++ [0x00, 0x00, 0x00, 0x00])))
  else if nbits = 40 then
    if w = 0x0000FFFFFF then some (.event (.rx (wireBytes 5 w ++ [0x00, 0x00, 0x00, 0x00, 0x00])))
    else some (.piece .wHdr 0 (wireBytes 5 w))
  else if nbits = 48 then some (.event (.rx (wireBytes 6 w)))
  else none

/-- The instruction the decoder reads from a word of the opcode table. -/
def decodeTableWord (nbits w : Nat) : Option Instr :=
  match tableCode nbits w with
  | none => none
  | some c =>
    match decode c with
    | .ok i => some i
    | .rejected _ => none

end Sys2Proof
end

