-- ==== Sys2Proof/Machine/Fetch.lean ====
section
/-! DEFINITION. What a step runs next: the oldest event that is waiting (R14), decoded. And where a word of the opcode table is
placed so that the next step runs it (log 14). -/

namespace Sys2Proof.Machine

/-- What a step finds. -/
inductive Fetched where
  /-- an instruction, and the state without the event that carried it -/
  | instr (i : Instr) (s : State)
  /-- a step of the environment only (R298), or no event at all -/
  | quiet (s : State)
deriving DecidableEq, Repr

/-- The reader produces bytes: `TPEND` grows (R298). -/
def readerSends (bs : Bytes) (s : State) : State := { s with tpend := s.tpend ++ bs }

/-- The event that waits first is taken and decoded. With no event nothing happens: "The block changes state only in
*events*" (R14, log 2). A delivery takes a non-empty prefix of `TPEND` as a chunk; a delivery of more than there is, or of
nothing, does not happen (R298, log 15). -/
def fetch (s : State) : Fetched :=
  match s.inq with
  | [] => .quiet s
  | .host h :: rest => .instr (decodeHost h) { s with inq := rest }
  | .rx c :: rest => .instr (decodeChunk c) { s with inq := rest }
  | .tick :: rest => .instr .tick { s with inq := rest }
  | .reader bs :: rest => .quiet (readerSends bs { s with inq := rest })
  | .deliver n :: rest =>
    if 0 < n ∧ n ≤ s.tpend.length then
      .instr (decodeChunk (s.tpend.take n)) { s with inq := rest, tpend := s.tpend.drop n }
    else .quiet { s with inq := rest }

/-- The read a stage waits with (R180 to R188). -/
def stageRead (st : SeqState) (n : Nat) (s : State) : Entry :=
  { need := n
    acc := []
    v := match st with
      | .wAck => vAck
      | .wHdr => vPfx
      | _ => .none
    deadline := timeValue s.cfg (s.now + s.timeoutMs.toNat)
    cid := .seq }

/-- A code placed where the next step takes it. An event waits first. A piece of a receive stage is not an event: the sequencer
waits at the stage with its read at the head, the bytes lie in `ACC`, and a tick waits (R101, R200, log 14).
A frame toward the reader is no input and is placed nowhere. -/
def placeCode (c : Code) (s : State) : State :=
  match c with
  | .event e => { s with inq := e :: s.inq }
  | .sent _ => s
  | .piece st rlen bytes =>
    { s with st := st, rlen := rlen, q := [stageRead st bytes.length s], acc := bytes, inq := .tick :: s.inq }

/-- A word of the opcode table placed where the next step takes it. -/
def placeWord (nbits w : Nat) (s : State) : State :=
  match tableCode nbits w with
  | none => s
  | some c => placeCode c s

end Sys2Proof.Machine
end

