-- ==== Sys2Proof/Safety.lean ====
section
/-! DEFINITION. What counts as a safe run, in the terms the statements use: the fault flag, the invariants of R47, the complete
list of failures (R272), runs of events, and the bound of R202. -/

namespace Sys2Proof.Machine

/-- A state in which `ACC_OVF` is set is faulted: "A model treats a run in which it is set as faulted" (R38, R162, U9). -/
def faultOf (s : State) : Option Fault := if s.accOvf then some .accOvf else none

/-- "The complete list of failures a transaction can end with" (R272): tag, cause, stage. -/
def failureTriples : List (Tag × Status × SeqState) :=
  [(.noAck, .timeout, .wAck),
   (.noAck, .checkFailed, .wAck),
   (.noValidMessage, .timeout, .wHdr),
   (.noValidMessage, .checkFailed, .wHdr),
   (.responseChecksumError, .ok, .wHdr),
   (.timeout, .timeout, .wExt),
   (.responseChecksumError, .ok, .wExt),
   (.responseTooLong, .ok, .wExt),
   (.timeout, .timeout, .wBody),
   (.timeout, .timeout, .wTrl),
   (.responseChecksumError, .ok, .wTrl),
   (.checkFailed, .ok, .wTrl)]

/-- The count an entry was enqueued with: `len(acc) + need` (R25, R47 b). -/
def Entry.requested (e : Entry) : Nat := e.acc.length + e.need

/-- The sequencer's reads in a queue, each as the count it asked for and its validator. -/
def seqReads (q : List Entry) : List (Nat × Validator) :=
  (q.filter fun e => decide (e.cid = .seq)).map fun e => (e.requested, e.v)

/-- The one read each waiting state waits with, and none in `IDLE` and `CANCEL_WAIT` (R47 d, R101, R183, R203). -/
def stageReads (st : SeqState) (rlen : BitVec 16) : List (Nat × Validator) :=
  match st with
  | .idle => []
  | .wAck => [(6, vAck)]
  | .wHdr => [(5, vPfx)]
  | .wExt => [(3, .none)]
  | .wBody => [(rlen.toNat, .none)]
  | .wTrl => [(2, .none)]
  | .cancelWait => []

/-- The result record: empty until a transaction has finished (R40, R234); a success holds its body and its length; a failure
is one of the twelve (R272) and has length 0. -/
def resultOk (r : Res) : Prop :=
  (r.valid = false → r = Res.zero) ∧
    (r.valid = true → r.ok = true →
      r.tag = .ok ∧ r.cause = .ok ∧ r.stage = .idle ∧ r.blen.toNat = r.body.length ∧ r.body.length ≤ maxRespLen) ∧
    (r.valid = true → r.ok = false →
      (r.tag, r.cause, r.stage) ∈ failureTriples ∧ r.blen = 0 ∧ r.body.length ≤ maxRespLen)

/-- What has been captured once the declared length is known (R102, R185, R186): a header with the preamble, and either a good
LCS outside the marker and its length byte in `RLEN`, or the marker and three length bytes with a good checksum and their
length in `RLEN`. The second is of the extended path (U1). -/
def headerPassed (s : State) : Prop :=
  (∃ len lcs : Byte, s.hdr = [0x00, 0x00, 0xFF, len, lcs] ∧ s.extf = false ∧ ¬ (len = 0xFF ∧ lcs = 0xFF) ∧
      (len.toNat + lcs.toNat) % 256 = 0 ∧ s.rlen.toNat = len.toNat) ∨
    (s.hdr = [0x00, 0x00, 0xFF, 0xFF, 0xFF] ∧ s.extf = true ∧
      ∃ hi lo lcs : Byte, s.extb = [hi, lo, lcs] ∧ (hi.toNat + lo.toNat + lcs.toNat) % 256 = 0 ∧
        s.rlen.toNat = 256 * hi.toNat + lo.toNat)

/-- A time fits the `W_TIME` bits of `NOW`'s type: always, for the unbounded counter of the reference model. "a `W_TIME`-bit
implementation must be wide enough that `NOW` does not wrap" (R130). -/
def Fits (c : Config) (n : Nat) : Prop := ∀ w, c.wTime = some w → n < 2 ^ w

/-- The invariants (R47), with the ranges of R21, R31, R33, R34, R37, R38, R39 and R40 that go with them. -/
structure Inv (s : State) : Prop where
  /-- the parameters are in their ranges (R7) -/
  legal : s.cfg.Legal
  /-- R47 (a) -/
  queueBound : s.q.length ≤ s.cfg.qDepth
  /-- R47 (c) -/
  behindHead : ∀ e ∈ s.q.tail, e.acc = []
  /-- R47 (b) and (d): the sequencer's read is the one its state waits with -/
  seqRead : seqReads s.q = stageReads s.st s.rlen
  /-- R47 (e), first half -/
  resultIdle : s.res.valid = true → s.st = .idle
  /-- R47 (e), second half: an accepted `EXEC` since reset has left its bytes in `OUT` -/
  idleResult : s.st = .idle → s.out ≠ [] → s.res.valid = true
  /-- R47 (f) -/
  lengthBound : s.st = .wBody ∨ s.st = .wTrl → s.rlen.toNat ≤ maxRespLen
  /-- R47 (g), of the unbounded counter; for a `W_TIME`-bit one see `TimesAreExactWhereTheyFit` -/
  wholeTicks : s.cfg.wTime = none → s.now % s.cfg.tickMs = 0
  /-- R21, R27, R39: times have the width `W_TIME` -/
  timeWidth : Fits s.cfg s.now ∧ Fits s.cfg s.cdl ∧ ∀ e ∈ s.q, Fits s.cfg e.deadline
  /-- R22, R63 -/
  accBound : ∀ cap, s.cfg.accCap = some cap → s.acc.length ≤ cap
  /-- R38: with unbounded `ACC` the flag is never set -/
  unboundedNoFault : s.cfg.accCap = none → s.accOvf = false
  /-- R31 -/
  cmdBound : s.cmd.length ≤ s.cfg.cmdCap
  /-- R33 -/
  hdrLength : s.hdr = [] ∨ s.hdr.length = 5
  /-- R34 -/
  extbLength : s.extb = [] ∨ s.extb.length = 3
  /-- R33, R36, R185: `W_EXT` follows the extended marker -/
  markerCaptured : s.st = .wExt → s.hdr = [0x00, 0x00, 0xFF, 0xFF, 0xFF] ∧ s.extf = true
  /-- R33 to R36, R185, R186, R280: past the length, the header and the extended length have passed their checks -/
  lengthCaptured : s.st = .wBody ∨ s.st = .wTrl → headerPassed s
  /-- R37 -/
  bodyBound : s.body.length ≤ maxRespLen
  /-- R37, R187: in `W_TRL` the body is captured with its checksum -/
  bodyCaptured : s.st = .wTrl → s.body.length = s.rlen.toNat ∧ s.bdcs = csum s.body
  /-- R39, R272: the failure held while the cancel runs -/
  heldFailure : s.st = .cancelWait → (s.ftag, s.fcause, s.fstage) ∈ failureTriples
  /-- R40, R234, R272 -/
  result : resultOk s.res

/-- A validator operand the port takes with a pattern store of `cap` bytes: not the reserved kind, no longer pattern
(R63, R107). -/
def Loadable (cap : Nat) (va : VArg) : Prop := va ≠ .reserved ∧ ∀ p, va = .exact p → p.length ≤ cap

/-- The validator a taken operand stands for (R26, R106). -/
def Stands (va : VArg) (v : Validator) : Prop :=
  (va = .none ∧ v = .none) ∨ (∃ p, va = .exact p ∧ v = .exact p) ∨ ∃ f, va = .pred f ∧ v = .pred f

/-- The event that waits first is a `RESET` of the host. -/
def resetNext (s : State) : Prop := ∃ h, s.inq.head? = some (.host h) ∧ h.op = 0xF

/-- The events `es`, one after the other, each a step of its own. -/
def runEvents : List Event → State → Host.Outcome State Fault Refusal
  | [], s => .next s
  | e :: es, s =>
    match step { s with inq := [e] } with
    | .next t => runEvents es t
    | .fault f => .fault f
    | .refused r => .refused r

/-- `max(1, ceil(t / TICK_MS))`, the ticks a wait of `t` milliseconds takes (R202). -/
def ticksFor (tickMs t : Nat) : Nat := max 1 ((t + tickMs - 1) / tickMs)

/-- How many of the events are ticks. -/
def tickCount (es : List Event) : Nat := (es.filter fun e => decide (e = .tick)).length

/-- The events of a run of R202: anything but a raw read, a `RESET` and a `CFGW` above `limit`. -/
def allowedBy (limit : Nat) : Event → Prop
  | .host h => h.op ≠ 0x2 ∧ h.op ≠ 0xF ∧ (h.op = 0x3 → h.value.toNat ≤ limit)
  | .rx _ => True
  | .tick => True
  | .reader _ => True
  | .deliver _ => True

end Sys2Proof.Machine
end

