-- ==== Sys2Proof/Certificates/Slice0/Obligations.lean ====
section
/-! DEFINITION. The statements for the provers. Each docstring says which rule or section of spec/ it formalises.
In every statement `rsp` is what the operation hands back to its invoker: the model's own field (log 3). A `timeValue` is the
exact time whenever it fits `W_TIME`, in the reference model always: `TimesAreExactWhereTheyFit` (log 6). A statement that
depends on R93, R97, R123, R127 or R186 is about the extended path, which the source flags as unverified (U1, log 17). -/

open Sys2Proof Sys2Proof.Machine

/-! ### The frame codec -/

/-- CSUM (R12, R121): the returned byte is `(0 - sum) mod 256`, it is 0 exactly when the sum is 0 mod 256, and no state
changes. -/
def Obligations.ChecksumIsTheNegatedSum : Prop :=
  ∀ (b : Bytes) (s : State), ∃ c : Byte,
    exec (.csum b) s = .next { s with rsp := .byte c } ∧
      (c.toNat : Int) = (0 - (byteSum b : Int)) % 256 ∧
      (c = 0x00 ↔ byteSum b % 256 = 0) ∧
      exec (.csum []) s = .next { s with rsp := .byte 0x00 }

/-- ENCN, ENCX, ENC (R122 to R124): the frame field by field, the form by length alone; no state changes. The extended form is
flagged unverified by the source (U1). -/
def Obligations.EncodersBuildTheFrame : Prop :=
  ∀ (p : Bytes) (s : State),
    let n := p.length
    let hi : Byte := BitVec.ofNat 8 (n / 256)
    let lo : Byte := BitVec.ofNat 8 (n % 256)
    let normal : Bytes := [0x00, 0x00, 0xFF, BitVec.ofNat 8 n, csum [BitVec.ofNat 8 n]] ++ p ++ [csum p, 0x00]
    let extended : Bytes := [0x00, 0x00, 0xFF, 0xFF, 0xFF, hi, lo, csum [hi, lo]] ++ p ++ [csum p, 0x00]
    (n ≤ 255 → exec (.encn p) s = .next { s with rsp := .bytes normal }) ∧
      (n ≤ 65535 → exec (.encx p) s = .next { s with rsp := .bytes extended }) ∧
      (n ≤ 255 → exec (.enc p) s = .next { s with rsp := .bytes normal }) ∧
      (256 ≤ n → n ≤ 65535 → exec (.enc p) s = .next { s with rsp := .bytes extended })

/-- ISACK, DECH, DECX, CHKT (R125 to R128): the verdict on literal bytes; no state changes. DECX is of the extended path
(U1). -/
def Obligations.DecodersReadTheirBytes : Prop :=
  ∀ (s : State) (b : Bytes) (b0 b1 b2 b3 b4 : Byte),
    exec (.isack b) s = .next { s with rsp := .verdict (decide (b = [0x00, 0x00, 0xFF, 0x00, 0xFF, 0x00])) } ∧
      exec (.dech [b0, b1, b2, b3, b4]) s =
        .next { s with
          rsp := .header
            { preOk := decide (b0 = 0x00 ∧ b1 = 0x00 ∧ b2 = 0xFF)
              extended := decide (b3 = 0xFF ∧ b4 = 0xFF)
              lcsOk := decide ((b3 = 0xFF ∧ b4 = 0xFF) ∨ (b3.toNat + b4.toNat) % 256 = 0)
              declaredLen := if b3 = 0xFF ∧ b4 = 0xFF then none else some b3 } } ∧
      exec (.decx [b0, b1, b2]) s =
        .next { s with
          rsp := .extLen
            { lcsOk := decide ((b0.toNat + b1.toNat + b2.toNat) % 256 = 0)
              len := BitVec.ofNat 16 (256 * b0.toNat + b1.toNat) } } ∧
      exec (.chkt b [b0, b1]) s = .next { s with rsp := .verdict (decide (b0 = csum b ∧ b1 = 0x00)) }

/-- DECF (R129): it answers on every byte sequence, and `OK(P)` exactly on the frames of `P` in one of the two forms with at
most 265 payload bytes. -/
def Obligations.DecfAcceptsExactlyTheFrames : Prop :=
  ∀ (f : Bytes) (s : State), ∃ r : DecfResult,
    exec (.decf f) s = .next { s with rsp := .decoded r } ∧
      ∀ p, r = .ok p ↔ (p.length ≤ 255 ∧ f = encn p) ∨ (p.length ≤ 265 ∧ f = encx p)

/-- DECF's tests in their order (R129), on every byte sequence: fewer than five bytes; else the preamble; under the marker the
three length bytes and their checksum (unverified by the source, U1), else the LCS; then the limit of 265, the bytes that are
missing, the trailer, and the bytes that are too many. -/
def Obligations.DecfTestsInOrder : Prop :=
  ∀ (s : State) (f rest : Bytes) (b0 b1 b2 b3 b4 hi lo lcs : Byte),
    let answers (f : Bytes) (r : DecfResult) : Prop := exec (.decf f) s = .next { s with rsp := .decoded r }
    let marker : Prop := b3 = 0xFF ∧ b4 = 0xFF
    let tail (n : Nat) : DecfResult :=
      if 265 < n then .err .tooLong
      else if rest.length < n + 2 then .err .short
      else if (rest.drop n).take 2 ≠ [csum (rest.take n), 0x00] then .err .dcs
      else if n + 2 < rest.length then .err .trailing
      else .ok (rest.take n)
    (f.length < 5 → answers f (.err .short)) ∧
      ([b0, b1, b2] ≠ [0x00, 0x00, 0xFF] → answers ([b0, b1, b2, b3, b4] ++ rest) (.err .badPreamble)) ∧
      (rest.length < 3 → answers ([0x00, 0x00, 0xFF, 0xFF, 0xFF] ++ rest) (.err .short)) ∧
      ((hi.toNat + lo.toNat + lcs.toNat) % 256 ≠ 0 →
        answers ([0x00, 0x00, 0xFF, 0xFF, 0xFF, hi, lo, lcs] ++ rest) (.err .lcs)) ∧
      ((hi.toNat + lo.toNat + lcs.toNat) % 256 = 0 →
        answers ([0x00, 0x00, 0xFF, 0xFF, 0xFF, hi, lo, lcs] ++ rest) (tail (256 * hi.toNat + lo.toNat))) ∧
      (¬ marker → (b3.toNat + b4.toNat) % 256 ≠ 0 →
        answers ([0x00, 0x00, 0xFF, b3, b4] ++ rest) (.err .lcs)) ∧
      (¬ marker → (b3.toNat + b4.toNat) % 256 = 0 → answers ([0x00, 0x00, 0xFF, b3, b4] ++ rest) (tail b3.toNat))

/-- The properties the source requires of the codec (R131): (a) to (e). The extended form is flagged unverified (U1). -/
def Obligations.CodecProperties : Prop :=
  (∀ b : Bytes, (byteSum b + (csum b).toNat) % 256 = 0) ∧
    (∀ p : Bytes, p.length ≤ 255 →
      decf (encn p) = .ok p ∧
        csum [BitVec.ofNat 8 p.length, csum [BitVec.ofNat 8 p.length]] = 0x00 ∧
        csum (p ++ [csum p]) = 0x00) ∧
    (∀ p : Bytes, p.length ≤ 65535 → (((enc p).drop 3).take 2 = [0xFF, 0xFF] ↔ 256 ≤ p.length)) ∧
    (∀ p : Bytes, 256 ≤ p.length → p.length ≤ 265 → decf (encx p) = .ok p) ∧
    (∀ p : Bytes, 265 < p.length → p.length ≤ 65535 → decf (enc p) = .err .tooLong) ∧
    ∀ p : Bytes, p.length ≤ 65535 → isack (enc p) = false

/-- Outside its stated domain a codec function is refused (U7: "`refuse`"; R122, R123: "no value"), and so are the frame rows
and the reactions that would apply it. That S.HDR and S.EXT and the frame rows are refused too is the model's choice
(log 10). A trailer of another length than two fails: also the model's choice (log 11). -/
def Obligations.OutsideTheCodecDomain : Prop :=
  ∀ (s : State) (d : Dir) (b : Bytes),
    (b.length ≠ 5 → exec (.dech b) s = .refused .codecDomain ∧ exec (.sHdr .ok b) s = .refused .codecDomain) ∧
      (b.length ≠ 3 → exec (.decx b) s = .refused .codecDomain ∧ exec (.sExt .ok b) s = .refused .codecDomain) ∧
      (255 < b.length → exec (.encn b) s = .refused .codecDomain ∧ exec (.frameNormal d b) s = .refused .codecDomain) ∧
      (65535 < b.length →
        exec (.encx b) s = .refused .codecDomain ∧ exec (.enc b) s = .refused .codecDomain ∧
          exec (.frameExtended d b) s = .refused .codecDomain) ∧
      ∀ body : Bytes, b.length ≠ 2 → exec (.chkt body b) s = .next { s with rsp := .verdict false }

/-! ### Encoding and decoding -/

/-- Decode and encode agree: the code of every well-formed instruction that has one decodes to that instruction, every operand
at every value. A chunk that happens to be one whole frame decodes to the frame's row instead of RXB, with the same effect
(log 12). -/
def Obligations.DecodeOfEncode : Prop :=
  (∀ (i : Instr) (c : Code), i.wf = true → encode i = some c → (∀ b, i ≠ .rxb b) → decode c = .ok i) ∧
    ∀ (b : Bytes) (s : State), decode (.event (.rx b)) = .ok (decodeChunk b) ∧ exec (decodeChunk b) s = exec (.rxb b) s

/-- A step runs the decoded instruction of the event that waits first, at the state without that event. -/
def Obligations.StepRunsTheDecodedInstruction : Prop :=
  ∀ (s : State) (e : Event) (rest : List Event) (i : Instr),
    s.inq = e :: rest → decode (.event e) = .ok i → step s = exec i { s with inq := rest }

/-- Sanity: words written out from the tables of R92 to R95, R101, R106 and R107 decode to the rows they stand for. That a chunk
from the reader which is one whole frame decodes to the frame's row, and not to RXB, is the model's choice (log 12). The
extended form and header are of the extended path (U1, log 17). -/
def Obligations.SampleCodesDecode : Prop :=
  decode (.event (.rx [0x00, 0x00, 0xFF, 0x02, 0xFE, 0xD5, 0x33, 0xF8, 0x00])) = .ok (.frameNormal .toHost [0xD5, 0x33]) ∧
    decode (.sent [0x00, 0x00, 0xFF, 0x04, 0xFC, 0xD4, 0x32, 0x81, 0xB7, 0xC2, 0x00]) =
      .ok (.frameNormal .toReader [0xD4, 0x32, 0x81, 0xB7]) ∧
    decode (.event (.rx [0x00, 0x00, 0xFF, 0xFF, 0xFF, 0x00, 0x02, 0xFE, 0xD5, 0x33, 0xF8, 0x00])) =
      .ok (.frameExtended .toHost [0xD5, 0x33]) ∧
    decode (.piece .wHdr 0 [0x00, 0x00, 0xFF, 0x02, 0xFE]) = .ok (.rxHdrNormal 0x02 0xFE) ∧
    decode (.piece .wHdr 0 [0x00, 0x00, 0xFF, 0xFF, 0xFF]) = .ok .rxHdrExt ∧
    decode (.event (.host { op := 0x2, vkind := 1, pattern := [0x05, 0x06], pred := .always, cmd := [], count := 2, value := 1000 })) =
      .ok (.hostEnq 2 (.exact [0x05, 0x06]) 1000) ∧
    decode (.event (.host { op := 0xE, vkind := 0, pattern := [], pred := .always, cmd := [], count := 0, value := 0 })) =
      .ok .reservedE

/-- The receive-stage rows are what a tick runs (R101, R200): when the sequencer's read waits at the head with nothing
assembled and `ACC` holds its piece, the tick is the row that the piece decodes to, run after the time has advanced and the
read has been taken from the queue. -/
def Obligations.PieceRowsAreWhatATickRuns : Prop :=
  ∀ (s : State) (e : Entry) (rest : List Entry) (i : Instr),
    s.q = e :: rest → e.cid = .seq → e.acc = [] → e.need ≤ s.acc.length →
    stageReads s.st s.rlen = [(e.need, e.v)] →
    decodePiece s.st s.rlen (s.acc.take e.need) = .ok i →
    exec .tick s = exec i { s with now := timeValue s.cfg (s.now + s.cfg.tickMs), acc := s.acc.drop e.need, q := rest }

/-- A host code of the opcode table, placed with `withFetchWord`, is what the very next step runs (R106; placing is the model's
choice, log 14). -/
def Obligations.TableHostCodeRunsNext : Prop :=
  ∀ (s : State) (w : Nat), w < 16 →
    ∃ i, decodeTableWord 8 w = some i ∧ step (s.withFetchWord 8 w) = exec i s ∧
      i = decodeHost { op := BitVec.ofNat 4 w, vkind := 0, pattern := [], pred := .always, cmd := [], count := 0, value := 0 }

/-! ### The host port -/

/-- NOP (R233): changes nothing, emits nothing, is never refused; `rsp` is the port's answer (log 3). -/
def Obligations.NopChangesNothing : Prop :=
  ∀ s : State, exec .nop s = .next { s with rsp := .accepted }

/-- EXEC accepted (R182): with a loadable validator, in `IDLE`, within `CMD_CAP`, with room in the queue. `tpend` is the
transport's unread input, which the `FLUSH` discards (R298). Every other field is unchanged. -/
def Obligations.ExecStartsATransaction : Prop :=
  ∀ (cmd : Bytes) (va : VArg) (v : Validator) (s : State),
    Loadable 265 va → Stands va v → s.st = .idle → cmd.length ≤ s.cfg.cmdCap → s.q.length < s.cfg.qDepth →
    exec (.exec cmd va) s =
      .next { s with
        rsp := .accepted
        res := { valid := false, ok := false, tag := .ok, cause := .ok, stage := .idle, blen := 0, body := [] }
        cmd := cmd
        cv := v
        hdr := []
        extb := []
        rlen := 0
        extf := false
        body := []
        bdcs := 0x00
        out := s.out ++ [.flush] ++ (enc cmd).map .tx
        tpend := []
        q := s.q ++
          [{ need := 6
             acc := []
             v := .exact [0x00, 0x00, 0xFF, 0x00, 0xFF, 0x00]
             deadline := timeValue s.cfg (s.now + s.timeoutMs.toNat)
             cid := .seq }]
        st := .wAck }

/-- ENQ accepted (R152, R153): the ticket is returned and incremented, wrapping in 16 bits, and the read goes to the end of the
queue, in every `ST`. Every other field is unchanged. -/
def Obligations.EnqGivesATicket : Prop :=
  ∀ (n : BitVec 16) (va : VArg) (v : Validator) (t : BitVec 32) (s : State),
    Loadable s.cfg.rawPatCap va → Stands va v → s.q.length < s.cfg.qDepth →
    exec (.hostEnq n va t) s =
      .next { s with
        rsp := .ticket s.tkt
        tkt := s.tkt + 1
        q := s.q ++
          [{ need := n.toNat, acc := [], v := v, deadline := timeValue s.cfg (s.now + t.toNat), cid := .raw s.tkt }] }

/-- CFGW (R232): writes `TIMEOUT_MS`, in every state, and nothing else: no deadline already in the queue moves. -/
def Obligations.CfgwWritesTheTimeoutOnly : Prop :=
  ∀ (value : BitVec 32) (s : State), exec (.cfgw value) s = .next { s with rsp := .accepted, timeoutMs := value }

/-- RESET (R48): every state element at the value of the table, after the operation and in the state the machine starts from. -/
def Obligations.ResetValues : Prop :=
  ∀ s : State,
    let atReset (t : State) : Prop :=
      t.now = 0 ∧ t.acc = [] ∧ t.q = [] ∧ t.tkt = 0 ∧ t.accOvf = false ∧ t.st = .idle ∧ t.cmd = [] ∧ t.cv = .none ∧
        t.hdr = [] ∧ t.extb = [] ∧ t.body = [] ∧ t.rlen = 0 ∧ t.extf = false ∧ t.bdcs = 0x00 ∧
        t.ftag = .ok ∧ t.fcause = .ok ∧ t.fstage = .idle ∧ t.cdl = 0 ∧
        t.res = { valid := false, ok := false, tag := .ok, cause := .ok, stage := .idle, blen := 0, body := [] } ∧
        t.timeoutMs = 1000 ∧ t.out = [] ∧ t.evt = []
    (∃ t, exec .reset s = .next t ∧ atReset t) ∧ atReset State.reset ∧
      tagCode .ok = 0 ∧ statusCode .ok = 0 ∧ stCode .idle = 0

/-- RESET sends nothing to the transport, does not flush it and keeps the parameters (R43, R230). That the coming events, the
transport's buffer and the counter of the free value stay is the model's choice (log 16). -/
def Obligations.ResetKeepsWhatIsNotTheBlocks : Prop :=
  ∀ s : State, ∃ t, exec .reset s = .next t ∧
    t = { State.resetWith s.cfg with rsp := .accepted, inq := s.inq, tpend := s.tpend, free := s.free }

/-- Reserved codes (R237): whatever its operand fields, a reserved `cmd_op`, and a reserved validator kind with EXEC or ENQ, is
refused with `BAD_OP`: a next state in which nothing but the port's answer changes. -/
def Obligations.ReservedCodesAreRefused : Prop :=
  ∀ s : State,
    (∀ h : HostCmd, 4 ≤ h.op.toNat → h.op.toNat ≤ 14 → exec (decodeHost h) s = .next { s with rsp := .refused .badOp }) ∧
      (∀ h : HostCmd, h.op = 0x1 ∨ h.op = 0x2 → h.vkind = 3 →
        exec (decodeHost h) s = .next { s with rsp := .refused .badOp }) ∧
      exec .reserved4 s = .next { s with rsp := .refused .badOp } ∧
      exec .reserved5 s = .next { s with rsp := .refused .badOp } ∧
      exec .reserved6 s = .next { s with rsp := .refused .badOp } ∧
      exec .reserved7 s = .next { s with rsp := .refused .badOp } ∧
      exec .reserved8 s = .next { s with rsp := .refused .badOp } ∧
      exec .reserved9 s = .next { s with rsp := .refused .badOp } ∧
      exec .reservedA s = .next { s with rsp := .refused .badOp } ∧
      exec .reservedB s = .next { s with rsp := .refused .badOp } ∧
      exec .reservedC s = .next { s with rsp := .refused .badOp } ∧
      exec .reservedD s = .next { s with rsp := .refused .badOp } ∧
      exec .reservedE s = .next { s with rsp := .refused .badOp }

/-- Refusals (R236): the first reason in the order `BAD_OP`, `ACTIVE`, `TOO_LONG`, `Q_FULL`, its code, and nothing but the
port's answer changes. -/
def Obligations.RefusalsInOrder : Prop :=
  ∀ s : State,
    (∀ h : HostCmd, 4 ≤ h.op.toNat → h.op.toNat ≤ 14 → exec (decodeHost h) s = .next { s with rsp := .refused .badOp }) ∧
      (∀ cmd va, ¬ Loadable 265 va → exec (.exec cmd va) s = .next { s with rsp := .refused .badOp }) ∧
      (∀ cmd va, Loadable 265 va → s.st ≠ .idle → exec (.exec cmd va) s = .next { s with rsp := .refused .active }) ∧
      (∀ cmd va, Loadable 265 va → s.st = .idle → s.cfg.cmdCap < cmd.length →
        exec (.exec cmd va) s = .next { s with rsp := .refused .tooLong }) ∧
      (∀ cmd va, Loadable 265 va → s.st = .idle → cmd.length ≤ s.cfg.cmdCap → s.q.length = s.cfg.qDepth →
        exec (.exec cmd va) s = .next { s with rsp := .refused .qFull }) ∧
      (∀ n va t, ¬ Loadable s.cfg.rawPatCap va → exec (.hostEnq n va t) s = .next { s with rsp := .refused .badOp }) ∧
      (∀ n va t, Loadable s.cfg.rawPatCap va → s.q.length = s.cfg.qDepth →
        exec (.hostEnq n va t) s = .next { s with rsp := .refused .qFull }) ∧
      rspCode (.refused .badOp) = some 1 ∧
      rspCode (.refused .active) = some 2 ∧
      rspCode (.refused .tooLong) = some 3 ∧
      rspCode (.refused .qFull) = some 4 ∧
      rspCode .accepted = some 0 ∧
      ∀ t, rspCode (.ticket t) = some 0

/-- Reading results (R234, R42): the flags; `RES` reads as 0 while it is not valid; after a failure no byte of a body can be
read, whatever the free value of `RES.BODY` is. -/
def Obligations.HostReadsOfTheResult : Prop :=
  ∀ s : State,
    ((hostView s).qEmpty = true ↔ s.q.length = 0) ∧
      ((hostView s).qFull = true ↔ s.q.length = s.cfg.qDepth) ∧
      ((hostView s).txnActive = true ↔ s.st ≠ .idle) ∧
      (hostView s).timeoutMs = s.timeoutMs ∧
      (hostView s).accOvf = s.accOvf ∧
      (s.res.valid = false →
        (hostView s).valid = false ∧ (hostView s).ok = false ∧ (hostView s).tag = 0 ∧ (hostView s).cause = 0 ∧
          (hostView s).stage = 0 ∧ (hostView s).blen = 0 ∧ (hostView s).body = []) ∧
      (s.res.valid = true →
        (hostView s).valid = true ∧ (hostView s).ok = s.res.ok ∧ (hostView s).tag = tagCode s.res.tag ∧
          (hostView s).cause = statusCode s.res.cause ∧ (hostView s).stage = stCode s.res.stage ∧
          (hostView s).blen = s.res.blen ∧ (hostView s).body = s.res.body.take s.res.blen.toNat) ∧
      (s.st = .cancelWait → s.cdl ≤ s.now →
        ∃ t, exec .cancelFinish s = .next t ∧ (hostView t).valid = true ∧ (hostView t).ok = false ∧
          (hostView t).tag = tagCode s.ftag ∧ (hostView t).cause = statusCode s.fcause ∧
          (hostView t).stage = stCode s.fstage ∧ (hostView t).blen = 0 ∧ (hostView t).body = [])

/-- The numeric codes (R30, R270, R271): every name has the code of its table, and no two names share one. -/
def Obligations.CodesOfTheTables : Prop :=
  [SeqState.idle, .wAck, .wHdr, .wExt, .wBody, .wTrl, .cancelWait].map stCode = [0, 1, 2, 3, 4, 5, 6] ∧
    [Tag.ok, .noAck, .noValidMessage, .responseChecksumError, .responseTooLong, .checkFailed, .timeout].map tagCode =
      [0, 1, 2, 3, 4, 5, 6] ∧
    [Status.ok, .timeout, .checkFailed].map statusCode = [0, 1, 2] ∧
    (∀ a b : SeqState, stCode a = stCode b → a = b) ∧
    (∀ a b : Tag, tagCode a = tagCode b → a = b) ∧
    ∀ a b : Status, statusCode a = statusCode b → a = b

/-! ### The transport and the frames -/

/-- RXB (R154, R162): the chunk is appended when it fits; otherwise what fits is appended, the rest dropped and `ACC_OVF` set.
Nothing else changes, in every `ST`. -/
def Obligations.ChunkIsAppended : Prop :=
  ∀ (c : Bytes) (s : State),
    ((s.cfg.accCap = none ∨ ∃ cap, s.cfg.accCap = some cap ∧ s.acc.length + c.length ≤ cap) →
        exec (.rxb c) s = .next { s with rsp := .none, acc := s.acc ++ c }) ∧
      (∀ cap, s.cfg.accCap = some cap → s.acc.length ≤ cap → cap < s.acc.length + c.length →
        exec (.rxb c) s =
          .next { s with rsp := .none, acc := s.acc ++ c.take (cap - s.acc.length), accOvf := true })

/-- Chunk boundaries carry no meaning (R61): two chunks with no tick between them are one chunk, overflow included, and an
empty chunk changes nothing but the answer. -/
def Obligations.ChunkBoundariesCarryNoMeaning : Prop :=
  ∀ (c1 c2 : Bytes) (s : State), ∃ s1 s2,
    exec (.rxb c1) s = .next s1 ∧ exec (.rxb c2) s1 = .next s2 ∧ exec (.rxb (c1 ++ c2)) s = .next s2 ∧
      exec (.rxb []) s = .next { s with rsp := .none }

/-- Frames toward the reader (R91 to R95, R74): the bytes of the frame are appended to `OUT`, the first on the wire first, and
nothing else changes. That a frame row is an operation of its own is the model's choice, and so is that the extended row runs
on 0 to 255 bytes, where R93 gives it 256 to 65535 toward the reader (log 12). -/
def Obligations.FramesTowardTheReader : Prop :=
  ∀ (p : Bytes) (s : State),
    (p.length ≤ 255 →
        exec (.frameNormal .toReader p) s = .next { s with rsp := .none, out := s.out ++ (encn p).map .tx }) ∧
      (p.length ≤ 65535 →
        exec (.frameExtended .toReader p) s = .next { s with rsp := .none, out := s.out ++ (encx p).map .tx }) ∧
      exec .frameCancel s =
        .next { s with rsp := .none, out := s.out ++ [.tx 0x00, .tx 0x00, .tx 0xFF, .tx 0x00, .tx 0xFF, .tx 0x00] }

/-- Frames from the reader (R91 to R94): the bytes of the frame arrive as one chunk (log 12). With room, they are appended to
`ACC`, and nothing else changes. -/
def Obligations.FramesFromTheReader : Prop :=
  ∀ (p : Bytes) (s : State),
    (p.length ≤ 255 → exec (.frameNormal .toHost p) s = exec (.rxb (encn p)) s) ∧
      (p.length ≤ 65535 → exec (.frameExtended .toHost p) s = exec (.rxb (encx p)) s) ∧
      exec .frameAck s = exec (.rxb [0x00, 0x00, 0xFF, 0x00, 0xFF, 0x00]) s ∧
      (s.cfg.accCap = none →
        (p.length ≤ 255 → exec (.frameNormal .toHost p) s = .next { s with rsp := .none, acc := s.acc ++ encn p }) ∧
          (p.length ≤ 65535 →
            exec (.frameExtended .toHost p) s = .next { s with rsp := .none, acc := s.acc ++ encx p }) ∧
          exec .frameAck s = .next { s with rsp := .none, acc := s.acc ++ [0x00, 0x00, 0xFF, 0x00, 0xFF, 0x00] })

/-- The environment model (R298): the reader's bytes wait in `TPEND`; a delivery takes a non-empty prefix of them as a chunk;
with no event a step changes nothing (the model's choice, log 2). -/
def Obligations.EnvironmentSteps : Prop :=
  ∀ (s : State) (rest : List Event),
    (∀ bs, s.inq = .reader bs :: rest → step s = .next { s with inq := rest, tpend := s.tpend ++ bs }) ∧
      (∀ n, s.inq = .deliver n :: rest → 0 < n → n ≤ s.tpend.length →
        step s = exec (.rxb (s.tpend.take n)) { s with inq := rest, tpend := s.tpend.drop n }) ∧
      (s.inq = [] → step s = .next s)

/-! ### The pending-read queue -/

/-- SVC (R155): one completion or none. The queue is empty; the head is satisfied and its validator passes, or fails; it has
timed out; or it keeps waiting with its partial bytes. -/
def Obligations.ServiceOfTheHead : Prop :=
  ∀ (s : State) (e : Entry) (rest : List Entry),
    (s.q = [] → exec .svc s = .next { s with rsp := .completion none }) ∧
      (s.q = e :: rest → e.need ≤ s.acc.length → evalValidator e.v (e.acc ++ s.acc.take e.need) = true →
        exec .svc s =
          .next { s with
            acc := s.acc.drop e.need
            q := rest
            rsp := .completion (some { cid := e.cid, status := .ok, bytes := e.acc ++ s.acc.take e.need }) }) ∧
      (s.q = e :: rest → e.need ≤ s.acc.length → evalValidator e.v (e.acc ++ s.acc.take e.need) = false →
        exec .svc s =
          .next { s with
            acc := s.acc.drop e.need
            q := rest
            rsp := .completion (some { cid := e.cid, status := .checkFailed, bytes := [] }) }) ∧
      (s.q = e :: rest → s.acc.length < e.need → e.deadline ≤ s.now →
        exec .svc s =
          .next { s with
            acc := []
            q := rest
            rsp := .completion (some { cid := e.cid, status := .timeout, bytes := [] }) }) ∧
      (s.q = e :: rest → s.acc.length < e.need → s.now < e.deadline →
        exec .svc s =
          .next { s with
            acc := []
            q := { need := e.need - s.acc.length, acc := e.acc ++ s.acc, v := e.v, deadline := e.deadline, cid := e.cid } :: rest
            rsp := .completion none })

/-- Bytes are conserved by a service of the head (R161 d): what the head held and `ACC` held is, in order, in the delivered
bytes, in the waiting head, or lost with a failed read, and then in `ACC`. -/
def Obligations.ServiceConservesBytes : Prop :=
  ∀ (s : State) (e : Entry) (rest : List Entry), s.q = e :: rest →
    ∃ t c, exec .svc s = .next t ∧ t.rsp = .completion c ∧
      ((c = none ∧ ∃ e', t.q = e' :: rest ∧ e'.acc ++ t.acc = e.acc ++ s.acc ∧ e'.requested = e.requested) ∨
        (∃ b, c = some { cid := e.cid, status := .ok, bytes := b } ∧ t.q = rest ∧ b ++ t.acc = e.acc ++ s.acc ∧
          b.length = e.requested) ∨
        ∃ st lost, c = some { cid := e.cid, status := st, bytes := [] } ∧ st ≠ .ok ∧ t.q = rest ∧
          lost ++ t.acc = e.acc ++ s.acc ∧ lost.length ≤ e.requested)

/-- VAL (R151): `NONE` passes, `EXACT` is equality of the whole buffer, `PRED(f)` applies `f`. A predicate is held as a term
(log 4): the constant, a slice of the buffer, its length, a length byte in it, and their negation, conjunction and
disjunction; `pfx` (R183) is a slice; a predicate known by its identity is a free function. No state changes. -/
def Obligations.ValidatorForms : Prop :=
  ∀ (p b : Bytes) (i k n : Nat) (f g : Pred) (s : State),
    let passes (h : Pred) : Bool := evalValidator (.pred h) b
    exec (.val .none b) s = .next { s with rsp := .verdict true } ∧
      exec (.val (.exact p) b) s = .next { s with rsp := .verdict (decide (b = p)) } ∧
      exec (.val (.pred f) b) s = .next { s with rsp := .verdict (passes f) } ∧
      passes (.slice 0 [0x00, 0x00, 0xFF]) = decide (b.take 3 = [0x00, 0x00, 0xFF]) ∧
      passes .always = true ∧
      passes (.slice i p) = decide ((b.drop i).take p.length = p) ∧
      passes (.lengthIs n) = decide (b.length = n) ∧
      (passes (.lengthByte i k) = true ↔ ∃ x, b[i]? = some x ∧ b.length = x.toNat + k) ∧
      passes (.neg f) = !passes f ∧
      passes (.both f g) = (passes f && passes g) ∧
      passes (.either f g) = (passes f || passes g) ∧
      passes (.user n) = Config.userPred n b

/-- `PRED(f)` holds `f` (R26, R151): for every total function on byte sequences and every bound on the buffer, some predicate
term answers `f(b)` on each buffer within the bound, 265 bytes for the caller's validator and 65535 for a raw read's. -/
def Obligations.EveryPredicateIsHeld : Prop :=
  ∀ (f : Bytes → Bool) (k : Nat), ∃ h : Pred, ∀ (b : Bytes) (s : State), b.length ≤ k →
    exec (.val (.pred h) b) s = .next { s with rsp := .verdict (f b) }

/-- ACLR (R156): `ACC` is emptied; `Q` and `ACC_OVF` stay. -/
def Obligations.AclrEmptiesTheBuffer : Prop :=
  ∀ s : State, exec .aclr s = .next { s with rsp := .none, acc := [] }

/-- enq (R153): with room, the entry goes to the end with `deadline = NOW + timeout`; `ACC` is not looked at. -/
def Obligations.EnqueueAtTheEnd : Prop :=
  ∀ (n : Nat) (v : Validator) (t : BitVec 32) (cid : Cid) (s : State), s.q.length < s.cfg.qDepth →
    exec (.enq n v t cid) s =
      .next { s with
        rsp := .none
        q := s.q ++ [{ need := n, acc := [], v := v, deadline := timeValue s.cfg (s.now + t.toNat), cid := cid }] }

/-! ### The reactions and the cancel sub-procedure -/

/-- S.ACK (R184): the next read, or `no-ack` with the queue's status as cause. -/
def Obligations.AckReaction : Prop :=
  ∀ (bytes : Bytes) (s : State), s.st = .wAck →
    let on : State :=
      { s with
        rsp := .none
        st := .wHdr
        q := s.q ++
          [{ need := 5
             acc := []
             v := .pred (.slice 0 [0x00, 0x00, 0xFF])
             deadline := timeValue s.cfg (s.now + s.timeoutMs.toNat)
             cid := .seq }] }
    let failed (cause : Status) : State :=
      { s with
        rsp := .none
        st := .cancelWait
        ftag := .noAck
        fcause := cause
        fstage := .wAck
        cdl := timeValue s.cfg (s.now + s.cfg.cancelWaitMs)
        out := s.out ++ [0x00, 0x00, 0xFF, 0x00, 0xFF, 0x00].map .tx }
    exec (.sAck .ok bytes) s = .next on ∧
      exec (.sAck .timeout bytes) s = .next (failed .timeout) ∧
      exec (.sAck .checkFailed bytes) s = .next (failed .checkFailed)

/-- S.HDR (R185, R102): the marker before the LCS, then the length. -/
def Obligations.HeaderReaction : Prop :=
  ∀ (b0 b1 b2 len lcs : Byte) (bytes : Bytes) (s : State), s.st = .wHdr →
    let read (n : Nat) : List Entry :=
      s.q ++ [{ need := n, acc := [], v := .none, deadline := timeValue s.cfg (s.now + s.timeoutMs.toNat), cid := .seq }]
    let seen : State := { s with rsp := .none, hdr := [b0, b1, b2, len, lcs], extf := false }
    let failed (t : State) (tag : Tag) (cause : Status) : State :=
      { t with
        rsp := .none
        st := .cancelWait
        ftag := tag
        fcause := cause
        fstage := .wHdr
        cdl := timeValue s.cfg (s.now + s.cfg.cancelWaitMs)
        out := s.out ++ [0x00, 0x00, 0xFF, 0x00, 0xFF, 0x00].map .tx }
    exec (.sHdr .ok [b0, b1, b2, 0xFF, 0xFF]) s =
        .next { s with rsp := .none, hdr := [b0, b1, b2, 0xFF, 0xFF], extf := true, q := read 3, st := .wExt } ∧
      (¬ (len = 0xFF ∧ lcs = 0xFF) →
        ((len.toNat + lcs.toNat) % 256 = 0 →
            exec (.sHdr .ok [b0, b1, b2, len, lcs]) s =
              .next { seen with rlen := BitVec.ofNat 16 len.toNat, q := read len.toNat, st := .wBody }) ∧
          ((len.toNat + lcs.toNat) % 256 ≠ 0 →
            exec (.sHdr .ok [b0, b1, b2, len, lcs]) s = .next (failed seen .responseChecksumError .ok))) ∧
      exec (.sHdr .timeout bytes) s = .next (failed s .noValidMessage .timeout) ∧
      exec (.sHdr .checkFailed bytes) s = .next (failed s .noValidMessage .checkFailed)

/-- S.EXT (R186): the checksum before the length; `RLEN` is written even when it is then found too long. The
extended path is flagged unverified by the source (U1). -/
def Obligations.ExtendedLengthReaction : Prop :=
  ∀ (hi lo lcs : Byte) (bytes : Bytes) (status : Status) (s : State), s.st = .wExt →
    let n := 256 * hi.toNat + lo.toNat
    let seen : State := { s with rsp := .none, extb := [hi, lo, lcs] }
    let failed (t : State) (tag : Tag) (cause : Status) : State :=
      { t with
        rsp := .none
        st := .cancelWait
        ftag := tag
        fcause := cause
        fstage := .wExt
        cdl := timeValue s.cfg (s.now + s.cfg.cancelWaitMs)
        out := s.out ++ [0x00, 0x00, 0xFF, 0x00, 0xFF, 0x00].map .tx }
    let result : State :=
      if (hi.toNat + lo.toNat + lcs.toNat) % 256 ≠ 0 then failed seen .responseChecksumError .ok
      else if 265 < n then failed { seen with rlen := BitVec.ofNat 16 n } .responseTooLong .ok
      else
        { seen with
          rlen := BitVec.ofNat 16 n
          st := .wBody
          q := s.q ++
            [{ need := n, acc := [], v := .none, deadline := timeValue s.cfg (s.now + s.timeoutMs.toNat), cid := .seq }] }
    exec (.sExt .ok [hi, lo, lcs]) s = .next result ∧
      (status ≠ .ok → exec (.sExt status bytes) s = .next (failed s .timeout .timeout))

/-- S.BODY (R187): the body is captured with its checksum and the trailer read is enqueued; a failed read is a
`timeout`. -/
def Obligations.BodyReaction : Prop :=
  ∀ (bytes : Bytes) (status : Status) (s : State), s.st = .wBody →
    let on : State :=
      { s with
        rsp := .none
        body := bytes
        bdcs := csum bytes
        st := .wTrl
        q := s.q ++ [{ need := 2, acc := [], v := .none, deadline := timeValue s.cfg (s.now + s.timeoutMs.toNat), cid := .seq }] }
    exec (.sBody .ok bytes) s = .next on ∧
      (status ≠ .ok →
        exec (.sBody status bytes) s =
          .next { s with
            rsp := .none
            st := .cancelWait
            ftag := .timeout
            fcause := .timeout
            fstage := .wBody
            cdl := timeValue s.cfg (s.now + s.cfg.cancelWaitMs)
            out := s.out ++ [0x00, 0x00, 0xFF, 0x00, 0xFF, 0x00].map .tx })

/-- S.TRL (R188): the trailer before the caller's validator; the validator sees the body only; success is
`finish_ok` (R198). -/
def Obligations.TrailerReaction : Prop :=
  ∀ (dcs post : Byte) (bytes : Bytes) (status : Status) (s : State), s.st = .wTrl →
    let failed (tag : Tag) (cause : Status) : State :=
      { s with
        rsp := .none
        st := .cancelWait
        ftag := tag
        fcause := cause
        fstage := .wTrl
        cdl := timeValue s.cfg (s.now + s.cfg.cancelWaitMs)
        out := s.out ++ [0x00, 0x00, 0xFF, 0x00, 0xFF, 0x00].map .tx }
    let good : Res :=
      { valid := true, ok := true, tag := .ok, cause := .ok, stage := .idle, blen := BitVec.ofNat 9 s.body.length
        body := s.body }
    let finished : State := { s with rsp := .none, res := good, st := .idle, evt := s.evt ++ [.done good] }
    (¬ (dcs = s.bdcs ∧ post = 0x00) → exec (.sTrl .ok [dcs, post]) s = .next (failed .responseChecksumError .ok)) ∧
      (dcs = s.bdcs → post = 0x00 → evalValidator s.cv s.body = false →
        exec (.sTrl .ok [dcs, post]) s = .next (failed .checkFailed .ok)) ∧
      (dcs = s.bdcs → post = 0x00 → evalValidator s.cv s.body = true →
        exec (.sTrl .ok [dcs, post]) s = .next finished) ∧
      (status ≠ .ok → exec (.sTrl status bytes) s = .next (failed .timeout .timeout))

/-- The receive-stage rows (R101 to R103): each completes, as the reaction of its stage to the piece, in the stage the row names.
That such a row is an operation of its own is the model's choice (log 13). RX.EXT is of the extended path (U1). -/
def Obligations.ReceiveRowsAreTheirReactions : Prop :=
  ∀ (s : State) (b0 b1 b2 b3 b4 : Byte) (p : Bytes),
    (s.st = .wAck → ∃ t,
      exec .rxAck s = .next t ∧ exec (.sAck .ok [0x00, 0x00, 0xFF, 0x00, 0xFF, 0x00]) s = .next t ∧ t.st = .wHdr) ∧
    (s.st = .wHdr → ∃ t,
      exec .rxHdrExt s = .next t ∧ exec (.sHdr .ok [0x00, 0x00, 0xFF, 0xFF, 0xFF]) s = .next t ∧ t.st = .wExt ∧
        t.extf = true) ∧
    (s.st = .wHdr → ∃ t,
      exec (.rxHdrNormal b3 b4) s = .next t ∧ exec (.sHdr .ok [0x00, 0x00, 0xFF, b3, b4]) s = .next t ∧
        t.hdr = [0x00, 0x00, 0xFF, b3, b4]) ∧
    (s.st = .wHdr → [b0, b1, b2] ≠ [0x00, 0x00, 0xFF] → ∃ t,
      exec (.rxHdrBad b0 b1 b2 b3 b4) s = .next t ∧ exec (.sHdr .checkFailed []) s = .next t ∧ t.st = .cancelWait ∧
        t.ftag = .noValidMessage ∧ t.hdr = s.hdr) ∧
    (s.st = .wExt → ∃ t,
      exec (.rxExt b0 b1 b2) s = .next t ∧ exec (.sExt .ok [b0, b1, b2]) s = .next t ∧ t.extb = [b0, b1, b2]) ∧
    (s.st = .wBody → p.length = s.rlen.toNat → ∃ t,
      exec (.rxBody p) s = .next t ∧ exec (.sBody .ok p) s = .next t ∧ t.st = .wTrl ∧ t.body = p) ∧
    (s.st = .wTrl → ∃ t, exec (.rxTrl b0) s = .next t ∧ exec (.sTrl .ok [b0, 0x00]) s = .next t)

/-- finish_ok (R198): the record of a success, `IDLE`, `DONE`; no cancel frame, no flush, and `ACC` stays. -/
def Obligations.SuccessfulEnd : Prop :=
  ∀ s : State, s.st = .wTrl →
    let good : Res :=
      { valid := true, ok := true, tag := .ok, cause := .ok, stage := .idle, blen := BitVec.ofNat 9 s.body.length
        body := s.body }
    exec .finishOk s = .next { s with rsp := .none, res := good, st := .idle, evt := s.evt ++ [.done good] }

/-- CANCEL.BEGIN (R196, R282): the failure is held, the cancel frame goes out, the wait begins; `Q`, `ACC`, `NOW`, `TKT`,
`TIMEOUT_MS`, `RES` and the capture registers are not changed. -/
def Obligations.CancelBegins : Prop :=
  ∀ (tag : Tag) (cause : Status) (s : State), waiting s.st = true →
    exec (.cancelBegin tag cause) s =
      .next { s with
        rsp := .none
        ftag := tag
        fcause := cause
        fstage := s.st
        out := s.out ++ [0x00, 0x00, 0xFF, 0x00, 0xFF, 0x00].map .tx
        cdl := timeValue s.cfg (s.now + s.cfg.cancelWaitMs)
        st := .cancelWait }

/-- CANCEL.FINISH (R197, R285): `FLUSH`, `ACC` emptied, the held failure surfaced, `IDLE`, `DONE`; `Q` is not cleared.
`RES.BODY` is some value of at most 265 bytes (U8), and `free` is the model's counter of such values (log 5). -/
def Obligations.CancelFinishes : Prop :=
  ∀ s : State, s.st = .cancelWait → s.cdl ≤ s.now →
    ∃ body : Bytes, body.length ≤ 265 ∧
      exec .cancelFinish s =
        .next { s with
          rsp := .none
          out := s.out ++ [.flush]
          tpend := []
          acc := []
          res := { valid := true, ok := false, tag := s.ftag, cause := s.fcause, stage := s.fstage, blen := 0, body := body }
          st := .idle
          evt := s.evt ++
            [.done { valid := true, ok := false, tag := s.ftag, cause := s.fcause, stage := s.fstage, blen := 0, body := body }]
          free := s.free + 1 }

/-- Outside the stage that invokes it an internal operation of the sequencer, or a receive-stage row, changes nothing: the model's
choice (log 9), from "no other change of `ST` exists" (R181). -/
def Obligations.NothingReactsOutOfStage : Prop :=
  ∀ (s : State) (status : Status) (bytes p : Bytes) (tag : Tag) (b0 b1 b2 b3 b4 : Byte) (n : Nat) (v : Validator) (t : BitVec 32)
    (cid : Cid),
    let same : Host.Outcome State Fault Refusal := .next { s with rsp := .none }
    (s.st ≠ .wAck → exec (.sAck status bytes) s = same ∧ exec .rxAck s = same) ∧
      (s.st ≠ .wHdr →
        ((status = .ok → bytes.length = 5) → exec (.sHdr status bytes) s = same) ∧ exec .rxHdrExt s = same ∧
          exec (.rxHdrNormal b3 b4) s = same ∧ exec (.rxHdrBad b0 b1 b2 b3 b4) s = same) ∧
      (s.st ≠ .wExt →
        ((status = .ok → bytes.length = 3) → exec (.sExt status bytes) s = same) ∧ exec (.rxExt b0 b1 b2) s = same) ∧
      (s.st ≠ .wBody → exec (.sBody status bytes) s = same ∧ exec (.rxBody p) s = same) ∧
      (s.st ≠ .wTrl → exec (.sTrl status bytes) s = same ∧ exec (.rxTrl b0) s = same ∧ exec .finishOk s = same) ∧
      (waiting s.st = false → exec (.cancelBegin tag status) s = same) ∧
      (s.st ≠ .cancelWait ∨ s.now < s.cdl → exec .cancelFinish s = same) ∧
      (s.cfg.qDepth ≤ s.q.length → exec (.enq n v t cid) s = same)

/-! ### The tick -/

/-- TICK (R200, R157): time advances, the head is serviced once (by SVC), and the completion is delivered: nothing, a `RAWDONE`, or the
reaction of the stage; a cancel wait that is over ends, after the `RAWDONE`. -/
def Obligations.TickRunsOneService : Prop :=
  ∀ s : State,
    let now := timeValue s.cfg (s.now + s.cfg.tickMs)
    let served := service { s with now := now }
    let s1 := served.1
    let due := s.st = .cancelWait ∧ s.cdl ≤ now
    exec .svc { s with now := now } = .next { s1 with rsp := .completion served.2 } ∧
      (∃ t, exec .tick s = .next t ∧ t.now = now) ∧
      (served.2 = none → ¬ due → exec .tick s = .next { s1 with rsp := .none }) ∧
      (served.2 = none → due → exec .tick s = exec .cancelFinish s1) ∧
      (∀ k status bytes, served.2 = some { cid := .raw k, status := status, bytes := bytes } → ¬ due →
        exec .tick s = .next { s1 with rsp := .none, evt := s1.evt ++ [.rawdone k status bytes] }) ∧
      (∀ k status bytes, served.2 = some { cid := .raw k, status := status, bytes := bytes } → due →
        exec .tick s = exec .cancelFinish { s1 with evt := s1.evt ++ [.rawdone k status bytes] }) ∧
      (∀ status bytes, served.2 = some { cid := .seq, status := status, bytes := bytes } →
        (s.st = .wAck → exec .tick s = exec (.sAck status bytes) s1) ∧
          (s.st = .wHdr → (status = .ok → bytes.length = 5) → exec .tick s = exec (.sHdr status bytes) s1) ∧
          (s.st = .wExt → (status = .ok → bytes.length = 3) → exec .tick s = exec (.sExt status bytes) s1) ∧
          (s.st = .wBody → exec .tick s = exec (.sBody status bytes) s1) ∧
          (s.st = .wTrl → exec .tick s = exec (.sTrl status bytes) s1))

/-! ### Whole-machine rules -/

/-- The invariants hold at reset, with every legal choice of the parameters. -/
def Obligations.ResetMeetsTheInvariants : Prop :=
  (∀ c : Config, c.Legal → Inv (State.resetWith c)) ∧ Inv State.reset

/-- Every step keeps the invariants (10_state.md section 7), from every state that meets them. -/
def Obligations.StepKeepsTheInvariants : Prop :=
  ∀ s t : State, Inv s → step s = .next t → Inv t

/-- No step of any state answers a fault or a refusal outcome: the block has no operation that stops it (R15). That an overflow
of `ACC` answers a next state, with the fault flag `ACC_OVF` set (R38, U9), is read from "it ends nothing by itself" (R276):
DEDUCED, log 8. -/
def Obligations.EveryStepAnswersNext : Prop :=
  ∀ s : State, ∃ t, step s = .next t

/-- The fixed parameters never change after instantiation (R43), whatever the event, `RESET` included. -/
def Obligations.ParametersNeverChange : Prop :=
  ∀ s t : State, step s = .next t → t.cfg = s.cfg

/-- Time in `W_TIME` bits (R7, R21, R130): a time that fits is exact, every time of the unbounded reference model fits, and
whatever is held fits. Ticks keep `NOW` a multiple of `TICK_MS` (R47 g) as long as it does not wrap, which the spec assumes; a
time that does not fit is a free value (log 6). -/
def Obligations.TimesAreExactWhereTheyFit : Prop :=
  (∀ (c : Config) (n : Nat),
      (Fits c n → timeValue c n = n) ∧ (c.wTime = none → timeValue c n = n) ∧
        ∀ w, c.wTime = some w → timeValue c n < 2 ^ w) ∧
    ∀ s t : State, step s = .next t → s.now % s.cfg.tickMs = 0 → Fits s.cfg (s.now + s.cfg.tickMs) → t.now % t.cfg.tickMs = 0

/-- `NOW` (R292): incremented by `TICK_MS` at each `TICK` and by nothing else; 0 after a `RESET`. -/
def Obligations.OnlyTicksAdvanceTime : Prop :=
  ∀ s t : State, step s = .next t →
    (s.inq.head? = some .tick → t.now = timeValue s.cfg (s.now + s.cfg.tickMs)) ∧
      (resetNext s → t.now = 0) ∧
      (s.inq.head? ≠ some .tick → ¬ resetNext s → t.now = s.now)

/-- The state transitions (R181): the whole table, and no other change of `ST`. A row of `W_HDR` and `W_EXT` speaks of the five
and three bytes its read has. -/
def Obligations.SequencerTransitions : Prop :=
  ∀ s t : State, step s = .next t →
    let failsWith (tag : Tag) : Prop := t.st = .cancelWait ∧ t.ftag = tag
    let now := timeValue s.cfg (s.now + s.cfg.tickMs)
    let c := (service { s with now := now }).2
    (s.inq.head? = some .tick →
      (∀ status bytes, c = some { cid := .seq, status := status, bytes := bytes } →
        (s.st = .wAck → (status = .ok → t.st = .wHdr) ∧ (status ≠ .ok → failsWith .noAck)) ∧
          (s.st = .wHdr → status ≠ .ok → failsWith .noValidMessage) ∧
          (∀ b0 b1 b2 b3 b4, s.st = .wHdr → status = .ok → bytes = [b0, b1, b2, b3, b4] →
            (b3 = 0xFF ∧ b4 = 0xFF → t.st = .wExt) ∧
              (¬ (b3 = 0xFF ∧ b4 = 0xFF) → (b3.toNat + b4.toNat) % 256 = 0 → t.st = .wBody) ∧
              (¬ (b3 = 0xFF ∧ b4 = 0xFF) → (b3.toNat + b4.toNat) % 256 ≠ 0 → failsWith .responseChecksumError)) ∧
          (s.st = .wExt → status ≠ .ok → failsWith .timeout) ∧
          (∀ e0 e1 e2, s.st = .wExt → status = .ok → bytes = [e0, e1, e2] →
            ((e0.toNat + e1.toNat + e2.toNat) % 256 ≠ 0 → failsWith .responseChecksumError) ∧
              ((e0.toNat + e1.toNat + e2.toNat) % 256 = 0 → 256 * e0.toNat + e1.toNat ≤ 265 → t.st = .wBody) ∧
              ((e0.toNat + e1.toNat + e2.toNat) % 256 = 0 → 265 < 256 * e0.toNat + e1.toNat →
                failsWith .responseTooLong)) ∧
          (s.st = .wBody → (status = .ok → t.st = .wTrl) ∧ (status ≠ .ok → failsWith .timeout)) ∧
          (s.st = .wTrl →
            (status ≠ .ok → failsWith .timeout) ∧
              (status = .ok → bytes ≠ [s.bdcs, 0x00] → failsWith .responseChecksumError) ∧
              (status = .ok → bytes = [s.bdcs, 0x00] → evalValidator s.cv s.body = false → failsWith .checkFailed) ∧
              (status = .ok → bytes = [s.bdcs, 0x00] → evalValidator s.cv s.body = true →
                t.st = .idle ∧ t.res.valid = true ∧ t.res.ok = true)) ∧
          (s.st = .idle → t.st = .idle)) ∧
        (s.st = .cancelWait → s.cdl ≤ now → t.st = .idle ∧ t.res.valid = true ∧ t.res.ok = false) ∧
        (s.st = .cancelWait → now < s.cdl → t.st = .cancelWait) ∧
        ((∀ status bytes, c ≠ some { cid := .seq, status := status, bytes := bytes }) → s.st ≠ .cancelWait → t.st = s.st)) ∧
      (∀ h, s.inq.head? = some (.host h) →
        (h.op = 0x1 → t.rsp = .accepted → s.st = .idle ∧ t.st = .wAck) ∧
          (h.op = 0xF → t.st = .idle) ∧
          (h.op ≠ 0xF → ¬ (h.op = 0x1 ∧ t.rsp = .accepted) → t.st = s.st)) ∧
      (s.inq.head? ≠ some .tick → (∀ h, s.inq.head? ≠ some (.host h)) → t.st = s.st)

/-- The complete list of failures (R272): a `DONE` of a failed transaction carries one of the twelve triples, and the record the
host reads holds the same. -/
def Obligations.NoFailureOutsideTheTwelve : Prop :=
  ∀ (s t : State) (l : List EvtItem) (r : Res), Inv s → step s = .next t → t.evt = s.evt ++ l → .done r ∈ l → r.ok = false →
    t.res = r ∧
      (r.tag, r.cause, r.stage) ∈
        [(Tag.noAck, Status.timeout, SeqState.wAck), (.noAck, .checkFailed, .wAck), (.noValidMessage, .timeout, .wHdr),
          (.noValidMessage, .checkFailed, .wHdr), (.responseChecksumError, .ok, .wHdr), (.timeout, .timeout, .wExt),
          (.responseChecksumError, .ok, .wExt), (.responseTooLong, .ok, .wExt), (.timeout, .timeout, .wBody),
          (.timeout, .timeout, .wTrl), (.responseChecksumError, .ok, .wTrl), (.checkFailed, .ok, .wTrl)]

/-- A success has passed every check that follows the ACK read (R188, R201, R280): the header read and its preamble; outside the
marker the LCS, under it the extended checksum; the 265 test; the body read, of the declared length; the trailer, of which
exactly the body's checksum and `00` were taken; the caller's validator, on the body delivered. Its `DONE` comes from a tick in
`W_TRL`. The ACK read leaves no bytes in the state: it is the way from `W_ACK` to `W_HDR` (`SequencerTransitions`). The extended
case is flagged unverified by the source (U1). -/
def Obligations.SuccessHasPassedEveryCheckAfterTheAck : Prop :=
  ∀ (s t : State) (l : List EvtItem) (r : Res), Inv s → step s = .next t → t.evt = s.evt ++ l → .done r ∈ l → r.ok = true →
    s.inq.head? = some .tick ∧ s.st = .wTrl ∧ t.st = .idle ∧ t.res = r ∧ r.body = s.body ∧ r.blen.toNat = r.body.length ∧
      r.body.length = s.rlen.toNat ∧ r.body.length ≤ 265 ∧ evalValidator s.cv r.body = true ∧ t.out = s.out ∧
      ((∃ len lcs : Byte, s.hdr = [0x00, 0x00, 0xFF, len, lcs] ∧ s.extf = false ∧ ¬ (len = 0xFF ∧ lcs = 0xFF) ∧
          (len.toNat + lcs.toNat) % 256 = 0 ∧ r.body.length = len.toNat) ∨
        (s.hdr = [0x00, 0x00, 0xFF, 0xFF, 0xFF] ∧ s.extf = true ∧
          ∃ hi lo lcs : Byte, s.extb = [hi, lo, lcs] ∧ (hi.toNat + lo.toNat + lcs.toNat) % 256 = 0 ∧
            r.body.length = 256 * hi.toNat + lo.toNat)) ∧
      ∃ e rest, s.q = e :: rest ∧ e.cid = .seq ∧ t.q = rest ∧ e.acc ++ s.acc = [csum r.body, 0x00] ++ t.acc

/-- Completions (R279): a `TICK` produces at most one `RAWDONE` and at most one `DONE`, the `RAWDONE` first, and no other event
produces any. -/
def Obligations.CompletionsComeFromTicks : Prop :=
  ∀ s t : State, step s = .next t → ¬ resetNext s →
    ∃ raws dones : List EvtItem,
      t.evt = s.evt ++ raws ++ dones ∧ raws.length ≤ 1 ∧ dones.length ≤ 1 ∧
        (∀ x ∈ raws, ∃ k status bytes, x = .rawdone k status bytes) ∧
        (∀ x ∈ dones, ∃ r, x = .done r) ∧
        (s.inq.head? ≠ some .tick → raws = [] ∧ dones = [])

/-- The output trace (R44, R74): append-only; an accepted EXEC adds `FLUSH` and the command frame, a failure the cancel frame,
the end of the cancel wait `FLUSH`; no other step adds anything. -/
def Obligations.OutputOrder : Prop :=
  ∀ s t : State, step s = .next t → ¬ resetNext s →
    ∃ l : List OutItem, t.out = s.out ++ l ∧
      (l = [] ∨
        (∃ h, s.inq.head? = some (.host h) ∧ h.op = 0x1 ∧ s.st = .idle ∧ t.st = .wAck ∧ l = .flush :: (enc h.cmd).map .tx) ∨
        (s.inq.head? = some .tick ∧ waiting s.st = true ∧ t.st = .cancelWait ∧
          l = [0x00, 0x00, 0xFF, 0x00, 0xFF, 0x00].map .tx) ∨
        (s.inq.head? = some .tick ∧ s.st = .cancelWait ∧ t.st = .idle ∧ l = [.flush]))

/-- The queue (R23, R25, R27, R161): entries are added at the end, at most one a step, empty and with a deadline that runs from
`NOW`; they leave only from the head and only in a tick; and only the head is ever touched: it keeps its validator, deadline
and route, and the sum of what it holds and what it wants. -/
def Obligations.OnlyTheHeadIsTouched : Prop :=
  ∀ s t : State, step s = .next t → ¬ resetNext s →
    ∃ new : List Entry, new.length ≤ 1 ∧
      (∀ e ∈ new, e.acc = [] ∧ (∃ ms : BitVec 32, e.deadline = timeValue t.cfg (t.now + ms.toNat)) ∧
        (e.cid = .seq → e.deadline = timeValue t.cfg (t.now + t.timeoutMs.toNat))) ∧
      (t.q = s.q ++ new ∨
        (s.inq.head? = some .tick ∧ t.q = s.q.tail ++ new) ∨
        (s.inq.head? = some .tick ∧ new = [] ∧
          ∃ e e' rest, s.q = e :: rest ∧ t.q = e' :: rest ∧ e'.v = e.v ∧ e'.deadline = e.deadline ∧ e'.cid = e.cid ∧
            e'.acc = e.acc ++ s.acc ∧ e'.requested = e.requested))

/-- `ACC_OVF` (R38): sticky, cleared only by `RESET`, set exactly when a chunk would make `ACC` exceed `ACC_CAP`. -/
def Obligations.OverflowFlagIsSticky : Prop :=
  ∀ s t : State, Inv s → step s = .next t →
    (resetNext s → t.accOvf = false) ∧
      (¬ resetNext s →
        (t.accOvf = true ↔
          s.accOvf = true ∨
            ∃ c cap, s.cfg.accCap = some cap ∧ cap < s.acc.length + c.length ∧
              (s.inq.head? = some (.rx c) ∨
                ∃ n, s.inq.head? = some (.deliver n) ∧ 0 < n ∧ n ≤ s.tpend.length ∧ c = s.tpend.take n)))

/-- `TIMEOUT_MS` (R41, R79): written by `CFGW` and `RESET` only, and the `CFGW` leaves the queue as it is. -/
def Obligations.TimeoutIsWrittenByCfgwOnly : Prop :=
  ∀ s t : State, step s = .next t →
    (∀ h, s.inq.head? = some (.host h) → h.op = 0x3 → t.timeoutMs = h.value ∧ t.q = s.q) ∧
      (resetNext s → t.timeoutMs = 1000) ∧
      (¬ resetNext s → (∀ h, s.inq.head? = some (.host h) → h.op ≠ 0x3) → t.timeoutMs = s.timeoutMs)

/-! ### Whole transactions -/

/-- Termination (R202): a transaction started with nothing else in the queue ends within `5*j + w` ticks of its EXEC, with one
`DONE`, whatever chunks come and whatever else the host does but raw reads, `RESET`, and a `CFGW` above `limit`. `NOW` must not
wrap while it runs, which the spec assumes and the unbounded counter never does (R130, log 6). -/
def Obligations.TransactionTerminates : Prop :=
  ∀ (cmd : Bytes) (va : VArg) (s s0 : State) (limit : Nat) (es : List Event),
    s.cfg.Legal → s.q = [] → exec (.exec cmd va) s = .next s0 → s0.rsp = .accepted → s.timeoutMs.toNat ≤ limit →
    (∀ e ∈ es, allowedBy limit e) →
    Fits s.cfg
      (s.now + (5 * ticksFor s.cfg.tickMs limit + ticksFor s.cfg.tickMs s.cfg.cancelWaitMs) * s.cfg.tickMs +
        max limit s.cfg.cancelWaitMs) →
    5 * ticksFor s.cfg.tickMs limit + ticksFor s.cfg.tickMs s.cfg.cancelWaitMs ≤ tickCount es →
    ∃ pre t r, pre <+: es ∧ runEvents pre s0 = .next t ∧ t.st = .idle ∧ t.res = r ∧ r.valid = true ∧
      t.evt = s.evt ++ [.done r] ∧
      tickCount pre ≤ 5 * ticksFor s.cfg.tickMs limit + ticksFor s.cfg.tickMs s.cfg.cancelWaitMs

/-- A correct response is delivered (R204, R323, R328): ACK and response frame in one chunk after an accepted EXEC, on a clean
queue and buffer, end in a success with the payload as body, after 4 ticks in the normal form and 5 in the extended, for
every command, payload of at most 265 bytes, accepting validator and legal configuration. -/
def Obligations.CorrectResponseIsDelivered : Prop :=
  ∀ (cmd p : Bytes) (va : VArg) (v : Validator) (s s0 : State),
    s.cfg.Legal → s.q = [] → s.acc = [] → Stands va v → p.length ≤ 265 → evalValidator v p = true →
    exec (.exec cmd va) s = .next s0 → s0.rsp = .accepted →
    let k := if 255 < p.length then 5 else 4
    let good : Res :=
      { valid := true, ok := true, tag := .ok, cause := .ok, stage := .idle, blen := BitVec.ofNat 9 p.length, body := p }
    ∃ t, runEvents (.rx ([0x00, 0x00, 0xFF, 0x00, 0xFF, 0x00] ++ enc p) :: List.replicate k .tick) s0 = .next t ∧
      t.st = .idle ∧ t.res = good ∧ t.evt = s.evt ++ [.done good] ∧ t.out = s.out ++ [.flush] ++ (enc cmd).map .tx ∧
      t.acc = [] ∧ t.q = [] ∧ t.accOvf = s.accOvf ∧
      (Fits s.cfg (s.now + k * s.cfg.tickMs) → t.now = s.now + k * s.cfg.tickMs)
end

