-- ==== Sys2Proof/Laws/Codec.lean ====
section
/-! SUPPORT. Lemmas of the frame codec: sums and checksums, lengths, what each decoder says of literal bytes, and that whatever
`DECF` accepts is a frame. -/

namespace Sys2Proof

@[simp] theorem byteSum_nil : byteSum [] = 0 := rfl

@[simp] theorem byteSum_cons (b : Byte) (s : Bytes) : byteSum (b :: s) = b.toNat + byteSum s := rfl

@[simp] theorem byteSum_append (s t : Bytes) : byteSum (s ++ t) = byteSum s + byteSum t := by
  induction s with
  | nil => simp
  | cons b s ih => simp [ih]; omega

theorem byteSum_perm {s t : Bytes} (h : s.Perm t) : byteSum s = byteSum t := by
  induction h with
  | nil => rfl
  | cons b _ ih => simp [ih]
  | swap a b s => simp; omega
  | trans _ _ ih1 ih2 => exact ih1.trans ih2

theorem csum_toNat (s : Bytes) : (csum s).toNat = (256 - byteSum s % 256) % 256 := by
  simp [csum, BitVec.toNat_ofNat]

/-- "Checksum is zero" holds exactly when the sum is 0 mod 256 (R12). -/
theorem csum_eq_zero_iff (s : Bytes) : csum s = 0 ↔ byteSum s % 256 = 0 := by
  rw [← BitVec.toNat_inj, csum_toNat]
  simp only [BitVec.ofNat_eq_ofNat, BitVec.toNat_ofNat]
  omega

theorem byteSum_add_csum (s : Bytes) : (byteSum s + (csum s).toNat) % 256 = 0 := by
  rw [csum_toNat]; omega

/-- The byte that completes a sum to 0 mod 256 is the checksum. -/
theorem eq_csum_of_sum {s : Bytes} {c : Byte} (h : (byteSum s + c.toNat) % 256 = 0) : c = csum s := by
  have hc := c.isLt
  rw [← BitVec.toNat_inj, csum_toNat]
  omega

@[simp] theorem length_encn (p : Bytes) : (encn p).length = p.length + 7 := by simp [encn]

@[simp] theorem length_encx (p : Bytes) : (encx p).length = p.length + 10 := by simp [encx]

theorem lenHi_lenLo {n : Nat} (h : n ≤ 65535) : 256 * (lenHi n).toNat + (lenLo n).toNat = n := by
  simp only [lenHi, lenLo, BitVec.toNat_ofNat]; omega

theorem dech_five (b0 b1 b2 b3 b4 : Byte) :
    dech [b0, b1, b2, b3, b4] =
      { preOk := decide ([b0, b1, b2] = preamble)
        extended := decide (b3 = 0xFF ∧ b4 = 0xFF)
        lcsOk := decide (b3 = 0xFF ∧ b4 = 0xFF) || decide ((b3.toNat + b4.toNat) % 256 = 0)
        declaredLen := if decide (b3 = 0xFF ∧ b4 = 0xFF) then none else some b3 } := rfl

theorem decx_three (e0 e1 e2 : Byte) :
    decx [e0, e1, e2] =
      { lcsOk := decide ((e0.toNat + e1.toNat + e2.toNat) % 256 = 0)
        len := BitVec.ofNat 16 (256 * e0.toNat + e1.toNat) } := rfl

theorem toNat_bigEndian (hi lo : Byte) : (BitVec.ofNat 16 (256 * hi.toNat + lo.toNat)).toNat = 256 * hi.toNat + lo.toNat := by
  have h1 := hi.isLt
  have h2 := lo.isLt
  simp only [BitVec.toNat_ofNat]; omega

theorem ofNat_toNat_byte (b : Byte) : BitVec.ofNat 8 b.toNat = b := by simp

/-- What `DECF`'s last tests accept: the length fits, and the bytes from the payload's offset on are payload, DCS, `00`. -/
theorem decfTail_ok {limit n o : Nat} {f p : Bytes} (h : decfTail limit n o f = .ok p) :
    n ≤ limit ∧ p.length = n ∧ f.drop o = p ++ [csum p, 0x00] := by
  unfold decfTail at h
  split at h; · cases h
  split at h; · cases h
  split at h; · cases h
  split at h; · cases h
  rename_i h1 h2 h3 h4
  have hp : p = (f.drop o).take n := by simpa using h.symm
  subst hp
  have hlen : f.length = o + n + 2 := by omega
  refine ⟨by omega, by simp; omega, ?_⟩
  have ht : (f.drop (o + n)).take 2 = [csum ((f.drop o).take n), 0x00] := by
    simpa [chkt] using h3
  have hd : (f.drop (o + n)).take 2 = f.drop (o + n) := List.take_of_length_le (by simp; omega)
  rw [← ht, hd, ← List.drop_drop, List.take_append_drop]

theorem exists_five {f : Bytes} (h : 5 ≤ f.length) : ∃ b0 b1 b2 b3 b4 r, f = b0 :: b1 :: b2 :: b3 :: b4 :: r := by
  match f, h with
  | b0 :: b1 :: b2 :: b3 :: b4 :: r, _ => exact ⟨b0, b1, b2, b3, b4, r, rfl⟩

theorem exists_three {f : Bytes} (h : 3 ≤ f.length) : ∃ b0 b1 b2 r, f = b0 :: b1 :: b2 :: r := by
  match f, h with
  | b0 :: b1 :: b2 :: r, _ => exact ⟨b0, b1, b2, r, rfl⟩

/-- Whatever `DECF` accepts is a frame of its payload: in the normal form told by the header, or in the extended form. -/
theorem decfWith_ok {limit : Nat} {f p : Bytes} (h : decfWith limit f = .ok p) :
    p.length ≤ limit ∧
      (((dech (f.take 5)).extended = false ∧ p.length ≤ 255 ∧ f = encn p) ∨
        ((dech (f.take 5)).extended = true ∧ p.length ≤ 65535 ∧ f = encx p)) := by
  unfold decfWith at h
  split at h; · cases h
  rename_i hlen
  obtain ⟨b0, b1, b2, b3, b4, r, rfl⟩ := exists_five (f := f) (by omega)
  simp only [List.take_succ_cons, List.take_zero, dech_five] at h ⊢
  split at h; · cases h
  rename_i hpre
  have hpre : b0 = 0x00 ∧ b1 = 0x00 ∧ b2 = 0xFF := by simpa [preamble] using hpre
  obtain ⟨rfl, rfl, rfl⟩ := hpre
  by_cases hx : b3 = 0xFF ∧ b4 = 0xFF
  · obtain ⟨rfl, rfl⟩ := hx
    simp only [and_self, decide_true, if_true] at h ⊢
    split at h; · cases h
    rename_i h8
    obtain ⟨e0, e1, e2, r, rfl⟩ := exists_three (f := r) (by simp at h8; omega)
    simp only [List.drop_succ_cons, List.drop_zero, List.take_succ_cons, List.take_zero, decx_three] at h
    split at h; · cases h
    rename_i hl
    have hl : (e0.toNat + e1.toNat + e2.toNat) % 256 = 0 := by simpa using hl
    rw [toNat_bigEndian] at h
    obtain ⟨h1, h2, h3⟩ := decfTail_ok h
    have a0 := e0.isLt
    have a1 := e1.isLt
    refine ⟨by omega, .inr ⟨trivial, by omega, ?_⟩⟩
    have hr : r = p ++ [csum p, 0x00] := by simpa using h3
    have e0h : lenHi p.length = e0 := by
      have hq : p.length / 256 = e0.toNat := by clear hl; omega
      rw [← BitVec.toNat_inj, lenHi, BitVec.toNat_ofNat, hq]; exact Nat.mod_eq_of_lt a0
    have e1h : lenLo p.length = e1 := by
      rw [← BitVec.toNat_inj, lenLo, BitVec.toNat_ofNat]; omega
    have e2h : e2 = csum [e0, e1] := eq_csum_of_sum (by simp only [byteSum_cons, byteSum_nil]; omega)
    rw [encx, e0h, e1h, ← e2h, hr]
    rfl
  · simp only [hx, decide_false, Bool.false_eq_true, if_false, Bool.false_or] at h ⊢
    split at h; · cases h
    rename_i hl
    have hl : (b3.toNat + b4.toNat) % 256 = 0 := by simpa using hl
    obtain ⟨h1, h2, h3⟩ := decfTail_ok h
    simp only [Option.getD_some] at h1 h2
    have a3 := b3.isLt
    refine ⟨by omega, .inl ⟨trivial, by omega, ?_⟩⟩
    have hr : r = p ++ [csum p, 0x00] := by simpa using h3
    have e3 : BitVec.ofNat 8 p.length = b3 := by rw [h2, ofNat_toNat_byte]
    have e4 : b4 = csum [b3] := eq_csum_of_sum (by simp only [byteSum_cons, byteSum_nil]; omega)
    rw [encn, e3, ← e4, hr]
    rfl

end Sys2Proof
end

