-- ==== Sys2Proof/Laws/State.lean ====
section
/-! SUPPORT. One lemma per field per update, true by rfl: what each shared operation writes, and that it writes nothing else. -/

namespace Sys2Proof.Machine

variable (s : State)

/-! ### answer -/

@[simp] theorem answer_now (r : Rsp) : (answer r s).now = s.now := rfl
@[simp] theorem answer_acc (r : Rsp) : (answer r s).acc = s.acc := rfl
@[simp] theorem answer_q (r : Rsp) : (answer r s).q = s.q := rfl
@[simp] theorem answer_tkt (r : Rsp) : (answer r s).tkt = s.tkt := rfl
@[simp] theorem answer_accOvf (r : Rsp) : (answer r s).accOvf = s.accOvf := rfl
@[simp] theorem answer_st (r : Rsp) : (answer r s).st = s.st := rfl
@[simp] theorem answer_cmd (r : Rsp) : (answer r s).cmd = s.cmd := rfl
@[simp] theorem answer_cv (r : Rsp) : (answer r s).cv = s.cv := rfl
@[simp] theorem answer_hdr (r : Rsp) : (answer r s).hdr = s.hdr := rfl
@[simp] theorem answer_extb (r : Rsp) : (answer r s).extb = s.extb := rfl
@[simp] theorem answer_rlen (r : Rsp) : (answer r s).rlen = s.rlen := rfl
@[simp] theorem answer_extf (r : Rsp) : (answer r s).extf = s.extf := rfl
@[simp] theorem answer_body (r : Rsp) : (answer r s).body = s.body := rfl
@[simp] theorem answer_bdcs (r : Rsp) : (answer r s).bdcs = s.bdcs := rfl
@[simp] theorem answer_ftag (r : Rsp) : (answer r s).ftag = s.ftag := rfl
@[simp] theorem answer_fcause (r : Rsp) : (answer r s).fcause = s.fcause := rfl
@[simp] theorem answer_fstage (r : Rsp) : (answer r s).fstage = s.fstage := rfl
@[simp] theorem answer_cdl (r : Rsp) : (answer r s).cdl = s.cdl := rfl
@[simp] theorem answer_res (r : Rsp) : (answer r s).res = s.res := rfl
@[simp] theorem answer_timeoutMs (r : Rsp) : (answer r s).timeoutMs = s.timeoutMs := rfl
@[simp] theorem answer_out (r : Rsp) : (answer r s).out = s.out := rfl
@[simp] theorem answer_evt (r : Rsp) : (answer r s).evt = s.evt := rfl
@[simp] theorem answer_cfg (r : Rsp) : (answer r s).cfg = s.cfg := rfl
@[simp] theorem answer_inq (r : Rsp) : (answer r s).inq = s.inq := rfl
@[simp] theorem answer_rsp (r : Rsp) : (answer r s).rsp = r := rfl
@[simp] theorem answer_tpend (r : Rsp) : (answer r s).tpend = s.tpend := rfl
@[simp] theorem answer_free (r : Rsp) : (answer r s).free = s.free := rfl

/-! ### emitTx -/

@[simp] theorem emitTx_now (bs : Bytes) : (emitTx bs s).now = s.now := rfl
@[simp] theorem emitTx_acc (bs : Bytes) : (emitTx bs s).acc = s.acc := rfl
@[simp] theorem emitTx_q (bs : Bytes) : (emitTx bs s).q = s.q := rfl
@[simp] theorem emitTx_tkt (bs : Bytes) : (emitTx bs s).tkt = s.tkt := rfl
@[simp] theorem emitTx_accOvf (bs : Bytes) : (emitTx bs s).accOvf = s.accOvf := rfl
@[simp] theorem emitTx_st (bs : Bytes) : (emitTx bs s).st = s.st := rfl
@[simp] theorem emitTx_cmd (bs : Bytes) : (emitTx bs s).cmd = s.cmd := rfl
@[simp] theorem emitTx_cv (bs : Bytes) : (emitTx bs s).cv = s.cv := rfl
@[simp] theorem emitTx_hdr (bs : Bytes) : (emitTx bs s).hdr = s.hdr := rfl
@[simp] theorem emitTx_extb (bs : Bytes) : (emitTx bs s).extb = s.extb := rfl
@[simp] theorem emitTx_rlen (bs : Bytes) : (emitTx bs s).rlen = s.rlen := rfl
@[simp] theorem emitTx_extf (bs : Bytes) : (emitTx bs s).extf = s.extf := rfl
@[simp] theorem emitTx_body (bs : Bytes) : (emitTx bs s).body = s.body := rfl
@[simp] theorem emitTx_bdcs (bs : Bytes) : (emitTx bs s).bdcs = s.bdcs := rfl
@[simp] theorem emitTx_ftag (bs : Bytes) : (emitTx bs s).ftag = s.ftag := rfl
@[simp] theorem emitTx_fcause (bs : Bytes) : (emitTx bs s).fcause = s.fcause := rfl
@[simp] theorem emitTx_fstage (bs : Bytes) : (emitTx bs s).fstage = s.fstage := rfl
@[simp] theorem emitTx_cdl (bs : Bytes) : (emitTx bs s).cdl = s.cdl := rfl
@[simp] theorem emitTx_res (bs : Bytes) : (emitTx bs s).res = s.res := rfl
@[simp] theorem emitTx_timeoutMs (bs : Bytes) : (emitTx bs s).timeoutMs = s.timeoutMs := rfl
@[simp] theorem emitTx_out (bs : Bytes) : (emitTx bs s).out = s.out ++ bs.map .tx := rfl
@[simp] theorem emitTx_evt (bs : Bytes) : (emitTx bs s).evt = s.evt := rfl
@[simp] theorem emitTx_cfg (bs : Bytes) : (emitTx bs s).cfg = s.cfg := rfl
@[simp] theorem emitTx_inq (bs : Bytes) : (emitTx bs s).inq = s.inq := rfl
@[simp] theorem emitTx_rsp (bs : Bytes) : (emitTx bs s).rsp = s.rsp := rfl
@[simp] theorem emitTx_tpend (bs : Bytes) : (emitTx bs s).tpend = s.tpend := rfl
@[simp] theorem emitTx_free (bs : Bytes) : (emitTx bs s).free = s.free := rfl

/-! ### emitFlush -/

@[simp] theorem emitFlush_now : (emitFlush s).now = s.now := rfl
@[simp] theorem emitFlush_acc : (emitFlush s).acc = s.acc := rfl
@[simp] theorem emitFlush_q : (emitFlush s).q = s.q := rfl
@[simp] theorem emitFlush_tkt : (emitFlush s).tkt = s.tkt := rfl
@[simp] theorem emitFlush_accOvf : (emitFlush s).accOvf = s.accOvf := rfl
@[simp] theorem emitFlush_st : (emitFlush s).st = s.st := rfl
@[simp] theorem emitFlush_cmd : (emitFlush s).cmd = s.cmd := rfl
@[simp] theorem emitFlush_cv : (emitFlush s).cv = s.cv := rfl
@[simp] theorem emitFlush_hdr : (emitFlush s).hdr = s.hdr := rfl
@[simp] theorem emitFlush_extb : (emitFlush s).extb = s.extb := rfl
@[simp] theorem emitFlush_rlen : (emitFlush s).rlen = s.rlen := rfl
@[simp] theorem emitFlush_extf : (emitFlush s).extf = s.extf := rfl
@[simp] theorem emitFlush_body : (emitFlush s).body = s.body := rfl
@[simp] theorem emitFlush_bdcs : (emitFlush s).bdcs = s.bdcs := rfl
@[simp] theorem emitFlush_ftag : (emitFlush s).ftag = s.ftag := rfl
@[simp] theorem emitFlush_fcause : (emitFlush s).fcause = s.fcause := rfl
@[simp] theorem emitFlush_fstage : (emitFlush s).fstage = s.fstage := rfl
@[simp] theorem emitFlush_cdl : (emitFlush s).cdl = s.cdl := rfl
@[simp] theorem emitFlush_res : (emitFlush s).res = s.res := rfl
@[simp] theorem emitFlush_timeoutMs : (emitFlush s).timeoutMs = s.timeoutMs := rfl
@[simp] theorem emitFlush_out : (emitFlush s).out = s.out ++ [.flush] := rfl
@[simp] theorem emitFlush_evt : (emitFlush s).evt = s.evt := rfl
@[simp] theorem emitFlush_cfg : (emitFlush s).cfg = s.cfg := rfl
@[simp] theorem emitFlush_inq : (emitFlush s).inq = s.inq := rfl
@[simp] theorem emitFlush_rsp : (emitFlush s).rsp = s.rsp := rfl
@[simp] theorem emitFlush_tpend : (emitFlush s).tpend = [] := rfl
@[simp] theorem emitFlush_free : (emitFlush s).free = s.free := rfl

/-! ### emitEvt -/

@[simp] theorem emitEvt_now (e : EvtItem) : (emitEvt e s).now = s.now := rfl
@[simp] theorem emitEvt_acc (e : EvtItem) : (emitEvt e s).acc = s.acc := rfl
@[simp] theorem emitEvt_q (e : EvtItem) : (emitEvt e s).q = s.q := rfl
@[simp] theorem emitEvt_tkt (e : EvtItem) : (emitEvt e s).tkt = s.tkt := rfl
@[simp] theorem emitEvt_accOvf (e : EvtItem) : (emitEvt e s).accOvf = s.accOvf := rfl
@[simp] theorem emitEvt_st (e : EvtItem) : (emitEvt e s).st = s.st := rfl
@[simp] theorem emitEvt_cmd (e : EvtItem) : (emitEvt e s).cmd = s.cmd := rfl
@[simp] theorem emitEvt_cv (e : EvtItem) : (emitEvt e s).cv = s.cv := rfl
@[simp] theorem emitEvt_hdr (e : EvtItem) : (emitEvt e s).hdr = s.hdr := rfl
@[simp] theorem emitEvt_extb (e : EvtItem) : (emitEvt e s).extb = s.extb := rfl
@[simp] theorem emitEvt_rlen (e : EvtItem) : (emitEvt e s).rlen = s.rlen := rfl
@[simp] theorem emitEvt_extf (e : EvtItem) : (emitEvt e s).extf = s.extf := rfl
@[simp] theorem emitEvt_body (e : EvtItem) : (emitEvt e s).body = s.body := rfl
@[simp] theorem emitEvt_bdcs (e : EvtItem) : (emitEvt e s).bdcs = s.bdcs := rfl
@[simp] theorem emitEvt_ftag (e : EvtItem) : (emitEvt e s).ftag = s.ftag := rfl
@[simp] theorem emitEvt_fcause (e : EvtItem) : (emitEvt e s).fcause = s.fcause := rfl
@[simp] theorem emitEvt_fstage (e : EvtItem) : (emitEvt e s).fstage = s.fstage := rfl
@[simp] theorem emitEvt_cdl (e : EvtItem) : (emitEvt e s).cdl = s.cdl := rfl
@[simp] theorem emitEvt_res (e : EvtItem) : (emitEvt e s).res = s.res := rfl
@[simp] theorem emitEvt_timeoutMs (e : EvtItem) : (emitEvt e s).timeoutMs = s.timeoutMs := rfl
@[simp] theorem emitEvt_out (e : EvtItem) : (emitEvt e s).out = s.out := rfl
@[simp] theorem emitEvt_evt (e : EvtItem) : (emitEvt e s).evt = s.evt ++ [e] := rfl
@[simp] theorem emitEvt_cfg (e : EvtItem) : (emitEvt e s).cfg = s.cfg := rfl
@[simp] theorem emitEvt_inq (e : EvtItem) : (emitEvt e s).inq = s.inq := rfl
@[simp] theorem emitEvt_rsp (e : EvtItem) : (emitEvt e s).rsp = s.rsp := rfl
@[simp] theorem emitEvt_tpend (e : EvtItem) : (emitEvt e s).tpend = s.tpend := rfl
@[simp] theorem emitEvt_free (e : EvtItem) : (emitEvt e s).free = s.free := rfl

/-! ### receive -/

@[simp] theorem receive_now (c : Bytes) : (receive c s).now = s.now := rfl
@[simp] theorem receive_acc (c : Bytes) : (receive c s).acc = s.acc ++ c.take (accRoom s c.length) := rfl
@[simp] theorem receive_q (c : Bytes) : (receive c s).q = s.q := rfl
@[simp] theorem receive_tkt (c : Bytes) : (receive c s).tkt = s.tkt := rfl
@[simp] theorem receive_accOvf (c : Bytes) : (receive c s).accOvf = (s.accOvf || decide (accRoom s c.length < c.length)) := rfl
@[simp] theorem receive_st (c : Bytes) : (receive c s).st = s.st := rfl
@[simp] theorem receive_cmd (c : Bytes) : (receive c s).cmd = s.cmd := rfl
@[simp] theorem receive_cv (c : Bytes) : (receive c s).cv = s.cv := rfl
@[simp] theorem receive_hdr (c : Bytes) : (receive c s).hdr = s.hdr := rfl
@[simp] theorem receive_extb (c : Bytes) : (receive c s).extb = s.extb := rfl
@[simp] theorem receive_rlen (c : Bytes) : (receive c s).rlen = s.rlen := rfl
@[simp] theorem receive_extf (c : Bytes) : (receive c s).extf = s.extf := rfl
@[simp] theorem receive_body (c : Bytes) : (receive c s).body = s.body := rfl
@[simp] theorem receive_bdcs (c : Bytes) : (receive c s).bdcs = s.bdcs := rfl
@[simp] theorem receive_ftag (c : Bytes) : (receive c s).ftag = s.ftag := rfl
@[simp] theorem receive_fcause (c : Bytes) : (receive c s).fcause = s.fcause := rfl
@[simp] theorem receive_fstage (c : Bytes) : (receive c s).fstage = s.fstage := rfl
@[simp] theorem receive_cdl (c : Bytes) : (receive c s).cdl = s.cdl := rfl
@[simp] theorem receive_res (c : Bytes) : (receive c s).res = s.res := rfl
@[simp] theorem receive_timeoutMs (c : Bytes) : (receive c s).timeoutMs = s.timeoutMs := rfl
@[simp] theorem receive_out (c : Bytes) : (receive c s).out = s.out := rfl
@[simp] theorem receive_evt (c : Bytes) : (receive c s).evt = s.evt := rfl
@[simp] theorem receive_cfg (c : Bytes) : (receive c s).cfg = s.cfg := rfl
@[simp] theorem receive_inq (c : Bytes) : (receive c s).inq = s.inq := rfl
@[simp] theorem receive_rsp (c : Bytes) : (receive c s).rsp = s.rsp := rfl
@[simp] theorem receive_tpend (c : Bytes) : (receive c s).tpend = s.tpend := rfl
@[simp] theorem receive_free (c : Bytes) : (receive c s).free = s.free := rfl

/-! ### clearAcc -/

@[simp] theorem clearAcc_now : (clearAcc s).now = s.now := rfl
@[simp] theorem clearAcc_acc : (clearAcc s).acc = [] := rfl
@[simp] theorem clearAcc_q : (clearAcc s).q = s.q := rfl
@[simp] theorem clearAcc_tkt : (clearAcc s).tkt = s.tkt := rfl
@[simp] theorem clearAcc_accOvf : (clearAcc s).accOvf = s.accOvf := rfl
@[simp] theorem clearAcc_st : (clearAcc s).st = s.st := rfl
@[simp] theorem clearAcc_cmd : (clearAcc s).cmd = s.cmd := rfl
@[simp] theorem clearAcc_cv : (clearAcc s).cv = s.cv := rfl
@[simp] theorem clearAcc_hdr : (clearAcc s).hdr = s.hdr := rfl
@[simp] theorem clearAcc_extb : (clearAcc s).extb = s.extb := rfl
@[simp] theorem clearAcc_rlen : (clearAcc s).rlen = s.rlen := rfl
@[simp] theorem clearAcc_extf : (clearAcc s).extf = s.extf := rfl
@[simp] theorem clearAcc_body : (clearAcc s).body = s.body := rfl
@[simp] theorem clearAcc_bdcs : (clearAcc s).bdcs = s.bdcs := rfl
@[simp] theorem clearAcc_ftag : (clearAcc s).ftag = s.ftag := rfl
@[simp] theorem clearAcc_fcause : (clearAcc s).fcause = s.fcause := rfl
@[simp] theorem clearAcc_fstage : (clearAcc s).fstage = s.fstage := rfl
@[simp] theorem clearAcc_cdl : (clearAcc s).cdl = s.cdl := rfl
@[simp] theorem clearAcc_res : (clearAcc s).res = s.res := rfl
@[simp] theorem clearAcc_timeoutMs : (clearAcc s).timeoutMs = s.timeoutMs := rfl
@[simp] theorem clearAcc_out : (clearAcc s).out = s.out := rfl
@[simp] theorem clearAcc_evt : (clearAcc s).evt = s.evt := rfl
@[simp] theorem clearAcc_cfg : (clearAcc s).cfg = s.cfg := rfl
@[simp] theorem clearAcc_inq : (clearAcc s).inq = s.inq := rfl
@[simp] theorem clearAcc_rsp : (clearAcc s).rsp = s.rsp := rfl
@[simp] theorem clearAcc_tpend : (clearAcc s).tpend = s.tpend := rfl
@[simp] theorem clearAcc_free : (clearAcc s).free = s.free := rfl

/-! ### enqueue -/

@[simp] theorem enqueue_now (n : Nat) (v : Validator) (t : BitVec 32) (cid : Cid) : (enqueue n v t cid s).now = s.now := rfl
@[simp] theorem enqueue_acc (n : Nat) (v : Validator) (t : BitVec 32) (cid : Cid) : (enqueue n v t cid s).acc = s.acc := rfl
@[simp] theorem enqueue_q (n : Nat) (v : Validator) (t : BitVec 32) (cid : Cid) : (enqueue n v t cid s).q = s.q ++ [{ need := n, acc := [], v := v, deadline := timeValue s.cfg (s.now + t.toNat), cid := cid }] := rfl
@[simp] theorem enqueue_tkt (n : Nat) (v : Validator) (t : BitVec 32) (cid : Cid) : (enqueue n v t cid s).tkt = s.tkt := rfl
@[simp] theorem enqueue_accOvf (n : Nat) (v : Validator) (t : BitVec 32) (cid : Cid) : (enqueue n v t cid s).accOvf = s.accOvf := rfl
@[simp] theorem enqueue_st (n : Nat) (v : Validator) (t : BitVec 32) (cid : Cid) : (enqueue n v t cid s).st = s.st := rfl
@[simp] theorem enqueue_cmd (n : Nat) (v : Validator) (t : BitVec 32) (cid : Cid) : (enqueue n v t cid s).cmd = s.cmd := rfl
@[simp] theorem enqueue_cv (n : Nat) (v : Validator) (t : BitVec 32) (cid : Cid) : (enqueue n v t cid s).cv = s.cv := rfl
@[simp] theorem enqueue_hdr (n : Nat) (v : Validator) (t : BitVec 32) (cid : Cid) : (enqueue n v t cid s).hdr = s.hdr := rfl
@[simp] theorem enqueue_extb (n : Nat) (v : Validator) (t : BitVec 32) (cid : Cid) : (enqueue n v t cid s).extb = s.extb := rfl
@[simp] theorem enqueue_rlen (n : Nat) (v : Validator) (t : BitVec 32) (cid : Cid) : (enqueue n v t cid s).rlen = s.rlen := rfl
@[simp] theorem enqueue_extf (n : Nat) (v : Validator) (t : BitVec 32) (cid : Cid) : (enqueue n v t cid s).extf = s.extf := rfl
@[simp] theorem enqueue_body (n : Nat) (v : Validator) (t : BitVec 32) (cid : Cid) : (enqueue n v t cid s).body = s.body := rfl
@[simp] theorem enqueue_bdcs (n : Nat) (v : Validator) (t : BitVec 32) (cid : Cid) : (enqueue n v t cid s).bdcs = s.bdcs := rfl
@[simp] theorem enqueue_ftag (n : Nat) (v : Validator) (t : BitVec 32) (cid : Cid) : (enqueue n v t cid s).ftag = s.ftag := rfl
@[simp] theorem enqueue_fcause (n : Nat) (v : Validator) (t : BitVec 32) (cid : Cid) : (enqueue n v t cid s).fcause = s.fcause := rfl
@[simp] theorem enqueue_fstage (n : Nat) (v : Validator) (t : BitVec 32) (cid : Cid) : (enqueue n v t cid s).fstage = s.fstage := rfl
@[simp] theorem enqueue_cdl (n : Nat) (v : Validator) (t : BitVec 32) (cid : Cid) : (enqueue n v t cid s).cdl = s.cdl := rfl
@[simp] theorem enqueue_res (n : Nat) (v : Validator) (t : BitVec 32) (cid : Cid) : (enqueue n v t cid s).res = s.res := rfl
@[simp] theorem enqueue_timeoutMs (n : Nat) (v : Validator) (t : BitVec 32) (cid : Cid) : (enqueue n v t cid s).timeoutMs = s.timeoutMs := rfl
@[simp] theorem enqueue_out (n : Nat) (v : Validator) (t : BitVec 32) (cid : Cid) : (enqueue n v t cid s).out = s.out := rfl
@[simp] theorem enqueue_evt (n : Nat) (v : Validator) (t : BitVec 32) (cid : Cid) : (enqueue n v t cid s).evt = s.evt := rfl
@[simp] theorem enqueue_cfg (n : Nat) (v : Validator) (t : BitVec 32) (cid : Cid) : (enqueue n v t cid s).cfg = s.cfg := rfl
@[simp] theorem enqueue_inq (n : Nat) (v : Validator) (t : BitVec 32) (cid : Cid) : (enqueue n v t cid s).inq = s.inq := rfl
@[simp] theorem enqueue_rsp (n : Nat) (v : Validator) (t : BitVec 32) (cid : Cid) : (enqueue n v t cid s).rsp = s.rsp := rfl
@[simp] theorem enqueue_tpend (n : Nat) (v : Validator) (t : BitVec 32) (cid : Cid) : (enqueue n v t cid s).tpend = s.tpend := rfl
@[simp] theorem enqueue_free (n : Nat) (v : Validator) (t : BitVec 32) (cid : Cid) : (enqueue n v t cid s).free = s.free := rfl

/-! ### seqRead -/

@[simp] theorem seqRead_now (n : Nat) (v : Validator) : (seqRead n v s).now = s.now := rfl
@[simp] theorem seqRead_acc (n : Nat) (v : Validator) : (seqRead n v s).acc = s.acc := rfl
@[simp] theorem seqRead_q (n : Nat) (v : Validator) : (seqRead n v s).q = s.q ++ [{ need := n, acc := [], v := v, deadline := timeValue s.cfg (s.now + s.timeoutMs.toNat), cid := .seq }] := rfl
@[simp] theorem seqRead_tkt (n : Nat) (v : Validator) : (seqRead n v s).tkt = s.tkt := rfl
@[simp] theorem seqRead_accOvf (n : Nat) (v : Validator) : (seqRead n v s).accOvf = s.accOvf := rfl
@[simp] theorem seqRead_st (n : Nat) (v : Validator) : (seqRead n v s).st = s.st := rfl
@[simp] theorem seqRead_cmd (n : Nat) (v : Validator) : (seqRead n v s).cmd = s.cmd := rfl
@[simp] theorem seqRead_cv (n : Nat) (v : Validator) : (seqRead n v s).cv = s.cv := rfl
@[simp] theorem seqRead_hdr (n : Nat) (v : Validator) : (seqRead n v s).hdr = s.hdr := rfl
@[simp] theorem seqRead_extb (n : Nat) (v : Validator) : (seqRead n v s).extb = s.extb := rfl
@[simp] theorem seqRead_rlen (n : Nat) (v : Validator) : (seqRead n v s).rlen = s.rlen := rfl
@[simp] theorem seqRead_extf (n : Nat) (v : Validator) : (seqRead n v s).extf = s.extf := rfl
@[simp] theorem seqRead_body (n : Nat) (v : Validator) : (seqRead n v s).body = s.body := rfl
@[simp] theorem seqRead_bdcs (n : Nat) (v : Validator) : (seqRead n v s).bdcs = s.bdcs := rfl
@[simp] theorem seqRead_ftag (n : Nat) (v : Validator) : (seqRead n v s).ftag = s.ftag := rfl
@[simp] theorem seqRead_fcause (n : Nat) (v : Validator) : (seqRead n v s).fcause = s.fcause := rfl
@[simp] theorem seqRead_fstage (n : Nat) (v : Validator) : (seqRead n v s).fstage = s.fstage := rfl
@[simp] theorem seqRead_cdl (n : Nat) (v : Validator) : (seqRead n v s).cdl = s.cdl := rfl
@[simp] theorem seqRead_res (n : Nat) (v : Validator) : (seqRead n v s).res = s.res := rfl
@[simp] theorem seqRead_timeoutMs (n : Nat) (v : Validator) : (seqRead n v s).timeoutMs = s.timeoutMs := rfl
@[simp] theorem seqRead_out (n : Nat) (v : Validator) : (seqRead n v s).out = s.out := rfl
@[simp] theorem seqRead_evt (n : Nat) (v : Validator) : (seqRead n v s).evt = s.evt := rfl
@[simp] theorem seqRead_cfg (n : Nat) (v : Validator) : (seqRead n v s).cfg = s.cfg := rfl
@[simp] theorem seqRead_inq (n : Nat) (v : Validator) : (seqRead n v s).inq = s.inq := rfl
@[simp] theorem seqRead_rsp (n : Nat) (v : Validator) : (seqRead n v s).rsp = s.rsp := rfl
@[simp] theorem seqRead_tpend (n : Nat) (v : Validator) : (seqRead n v s).tpend = s.tpend := rfl
@[simp] theorem seqRead_free (n : Nat) (v : Validator) : (seqRead n v s).free = s.free := rfl

/-! ### advance -/

@[simp] theorem advance_now : (advance s).now = timeValue s.cfg (s.now + s.cfg.tickMs) := rfl
@[simp] theorem advance_acc : (advance s).acc = s.acc := rfl
@[simp] theorem advance_q : (advance s).q = s.q := rfl
@[simp] theorem advance_tkt : (advance s).tkt = s.tkt := rfl
@[simp] theorem advance_accOvf : (advance s).accOvf = s.accOvf := rfl
@[simp] theorem advance_st : (advance s).st = s.st := rfl
@[simp] theorem advance_cmd : (advance s).cmd = s.cmd := rfl
@[simp] theorem advance_cv : (advance s).cv = s.cv := rfl
@[simp] theorem advance_hdr : (advance s).hdr = s.hdr := rfl
@[simp] theorem advance_extb : (advance s).extb = s.extb := rfl
@[simp] theorem advance_rlen : (advance s).rlen = s.rlen := rfl
@[simp] theorem advance_extf : (advance s).extf = s.extf := rfl
@[simp] theorem advance_body : (advance s).body = s.body := rfl
@[simp] theorem advance_bdcs : (advance s).bdcs = s.bdcs := rfl
@[simp] theorem advance_ftag : (advance s).ftag = s.ftag := rfl
@[simp] theorem advance_fcause : (advance s).fcause = s.fcause := rfl
@[simp] theorem advance_fstage : (advance s).fstage = s.fstage := rfl
@[simp] theorem advance_cdl : (advance s).cdl = s.cdl := rfl
@[simp] theorem advance_res : (advance s).res = s.res := rfl
@[simp] theorem advance_timeoutMs : (advance s).timeoutMs = s.timeoutMs := rfl
@[simp] theorem advance_out : (advance s).out = s.out := rfl
@[simp] theorem advance_evt : (advance s).evt = s.evt := rfl
@[simp] theorem advance_cfg : (advance s).cfg = s.cfg := rfl
@[simp] theorem advance_inq : (advance s).inq = s.inq := rfl
@[simp] theorem advance_rsp : (advance s).rsp = s.rsp := rfl
@[simp] theorem advance_tpend : (advance s).tpend = s.tpend := rfl
@[simp] theorem advance_free : (advance s).free = s.free := rfl

/-! ### cancelBegin -/

@[simp] theorem cancelBegin_now (tag : Tag) (cause : Status) : (cancelBegin tag cause s).now = s.now := rfl
@[simp] theorem cancelBegin_acc (tag : Tag) (cause : Status) : (cancelBegin tag cause s).acc = s.acc := rfl
@[simp] theorem cancelBegin_q (tag : Tag) (cause : Status) : (cancelBegin tag cause s).q = s.q := rfl
@[simp] theorem cancelBegin_tkt (tag : Tag) (cause : Status) : (cancelBegin tag cause s).tkt = s.tkt := rfl
@[simp] theorem cancelBegin_accOvf (tag : Tag) (cause : Status) : (cancelBegin tag cause s).accOvf = s.accOvf := rfl
@[simp] theorem cancelBegin_st (tag : Tag) (cause : Status) : (cancelBegin tag cause s).st = .cancelWait := rfl
@[simp] theorem cancelBegin_cmd (tag : Tag) (cause : Status) : (cancelBegin tag cause s).cmd = s.cmd := rfl
@[simp] theorem cancelBegin_cv (tag : Tag) (cause : Status) : (cancelBegin tag cause s).cv = s.cv := rfl
@[simp] theorem cancelBegin_hdr (tag : Tag) (cause : Status) : (cancelBegin tag cause s).hdr = s.hdr := rfl
@[simp] theorem cancelBegin_extb (tag : Tag) (cause : Status) : (cancelBegin tag cause s).extb = s.extb := rfl
@[simp] theorem cancelBegin_rlen (tag : Tag) (cause : Status) : (cancelBegin tag cause s).rlen = s.rlen := rfl
@[simp] theorem cancelBegin_extf (tag : Tag) (cause : Status) : (cancelBegin tag cause s).extf = s.extf := rfl
@[simp] theorem cancelBegin_body (tag : Tag) (cause : Status) : (cancelBegin tag cause s).body = s.body := rfl
@[simp] theorem cancelBegin_bdcs (tag : Tag) (cause : Status) : (cancelBegin tag cause s).bdcs = s.bdcs := rfl
@[simp] theorem cancelBegin_ftag (tag : Tag) (cause : Status) : (cancelBegin tag cause s).ftag = tag := rfl
@[simp] theorem cancelBegin_fcause (tag : Tag) (cause : Status) : (cancelBegin tag cause s).fcause = cause := rfl
@[simp] theorem cancelBegin_fstage (tag : Tag) (cause : Status) : (cancelBegin tag cause s).fstage = s.st := rfl
@[simp] theorem cancelBegin_cdl (tag : Tag) (cause : Status) : (cancelBegin tag cause s).cdl = timeValue s.cfg (s.now + s.cfg.cancelWaitMs) := rfl
@[simp] theorem cancelBegin_res (tag : Tag) (cause : Status) : (cancelBegin tag cause s).res = s.res := rfl
@[simp] theorem cancelBegin_timeoutMs (tag : Tag) (cause : Status) : (cancelBegin tag cause s).timeoutMs = s.timeoutMs := rfl
@[simp] theorem cancelBegin_out (tag : Tag) (cause : Status) : (cancelBegin tag cause s).out = s.out ++ cancelFrame.map .tx := rfl
@[simp] theorem cancelBegin_evt (tag : Tag) (cause : Status) : (cancelBegin tag cause s).evt = s.evt := rfl
@[simp] theorem cancelBegin_cfg (tag : Tag) (cause : Status) : (cancelBegin tag cause s).cfg = s.cfg := rfl
@[simp] theorem cancelBegin_inq (tag : Tag) (cause : Status) : (cancelBegin tag cause s).inq = s.inq := rfl
@[simp] theorem cancelBegin_rsp (tag : Tag) (cause : Status) : (cancelBegin tag cause s).rsp = s.rsp := rfl
@[simp] theorem cancelBegin_tpend (tag : Tag) (cause : Status) : (cancelBegin tag cause s).tpend = s.tpend := rfl
@[simp] theorem cancelBegin_free (tag : Tag) (cause : Status) : (cancelBegin tag cause s).free = s.free := rfl

/-! ### cancelFinish -/

@[simp] theorem cancelFinish_now : (cancelFinish s).now = s.now := rfl
@[simp] theorem cancelFinish_acc : (cancelFinish s).acc = [] := rfl
@[simp] theorem cancelFinish_q : (cancelFinish s).q = s.q := rfl
@[simp] theorem cancelFinish_tkt : (cancelFinish s).tkt = s.tkt := rfl
@[simp] theorem cancelFinish_accOvf : (cancelFinish s).accOvf = s.accOvf := rfl
@[simp] theorem cancelFinish_st : (cancelFinish s).st = .idle := rfl
@[simp] theorem cancelFinish_cmd : (cancelFinish s).cmd = s.cmd := rfl
@[simp] theorem cancelFinish_cv : (cancelFinish s).cv = s.cv := rfl
@[simp] theorem cancelFinish_hdr : (cancelFinish s).hdr = s.hdr := rfl
@[simp] theorem cancelFinish_extb : (cancelFinish s).extb = s.extb := rfl
@[simp] theorem cancelFinish_rlen : (cancelFinish s).rlen = s.rlen := rfl
@[simp] theorem cancelFinish_extf : (cancelFinish s).extf = s.extf := rfl
@[simp] theorem cancelFinish_body : (cancelFinish s).body = s.body := rfl
@[simp] theorem cancelFinish_bdcs : (cancelFinish s).bdcs = s.bdcs := rfl
@[simp] theorem cancelFinish_ftag : (cancelFinish s).ftag = s.ftag := rfl
@[simp] theorem cancelFinish_fcause : (cancelFinish s).fcause = s.fcause := rfl
@[simp] theorem cancelFinish_fstage : (cancelFinish s).fstage = s.fstage := rfl
@[simp] theorem cancelFinish_cdl : (cancelFinish s).cdl = s.cdl := rfl
@[simp] theorem cancelFinish_res : (cancelFinish s).res = failedRes s := rfl
@[simp] theorem cancelFinish_timeoutMs : (cancelFinish s).timeoutMs = s.timeoutMs := rfl
@[simp] theorem cancelFinish_out : (cancelFinish s).out = s.out ++ [.flush] := rfl
@[simp] theorem cancelFinish_evt : (cancelFinish s).evt = s.evt ++ [.done (failedRes s)] := rfl
@[simp] theorem cancelFinish_cfg : (cancelFinish s).cfg = s.cfg := rfl
@[simp] theorem cancelFinish_inq : (cancelFinish s).inq = s.inq := rfl
@[simp] theorem cancelFinish_rsp : (cancelFinish s).rsp = s.rsp := rfl
@[simp] theorem cancelFinish_tpend : (cancelFinish s).tpend = [] := rfl
@[simp] theorem cancelFinish_free : (cancelFinish s).free = s.free + 1 := rfl

/-! ### finishOk -/

@[simp] theorem finishOk_now : (finishOk s).now = s.now := rfl
@[simp] theorem finishOk_acc : (finishOk s).acc = s.acc := rfl
@[simp] theorem finishOk_q : (finishOk s).q = s.q := rfl
@[simp] theorem finishOk_tkt : (finishOk s).tkt = s.tkt := rfl
@[simp] theorem finishOk_accOvf : (finishOk s).accOvf = s.accOvf := rfl
@[simp] theorem finishOk_st : (finishOk s).st = .idle := rfl
@[simp] theorem finishOk_cmd : (finishOk s).cmd = s.cmd := rfl
@[simp] theorem finishOk_cv : (finishOk s).cv = s.cv := rfl
@[simp] theorem finishOk_hdr : (finishOk s).hdr = s.hdr := rfl
@[simp] theorem finishOk_extb : (finishOk s).extb = s.extb := rfl
@[simp] theorem finishOk_rlen : (finishOk s).rlen = s.rlen := rfl
@[simp] theorem finishOk_extf : (finishOk s).extf = s.extf := rfl
@[simp] theorem finishOk_body : (finishOk s).body = s.body := rfl
@[simp] theorem finishOk_bdcs : (finishOk s).bdcs = s.bdcs := rfl
@[simp] theorem finishOk_ftag : (finishOk s).ftag = s.ftag := rfl
@[simp] theorem finishOk_fcause : (finishOk s).fcause = s.fcause := rfl
@[simp] theorem finishOk_fstage : (finishOk s).fstage = s.fstage := rfl
@[simp] theorem finishOk_cdl : (finishOk s).cdl = s.cdl := rfl
@[simp] theorem finishOk_res : (finishOk s).res = okRes s := rfl
@[simp] theorem finishOk_timeoutMs : (finishOk s).timeoutMs = s.timeoutMs := rfl
@[simp] theorem finishOk_out : (finishOk s).out = s.out := rfl
@[simp] theorem finishOk_evt : (finishOk s).evt = s.evt ++ [.done (okRes s)] := rfl
@[simp] theorem finishOk_cfg : (finishOk s).cfg = s.cfg := rfl
@[simp] theorem finishOk_inq : (finishOk s).inq = s.inq := rfl
@[simp] theorem finishOk_rsp : (finishOk s).rsp = s.rsp := rfl
@[simp] theorem finishOk_tpend : (finishOk s).tpend = s.tpend := rfl
@[simp] theorem finishOk_free : (finishOk s).free = s.free := rfl

/-! ### startTxn -/

@[simp] theorem startTxn_now (cmd : Bytes) (v : Validator) : (startTxn cmd v s).now = s.now := rfl
@[simp] theorem startTxn_acc (cmd : Bytes) (v : Validator) : (startTxn cmd v s).acc = s.acc := rfl
@[simp] theorem startTxn_q (cmd : Bytes) (v : Validator) : (startTxn cmd v s).q = s.q ++ [{ need := 6, acc := [], v := vAck, deadline := timeValue s.cfg (s.now + s.timeoutMs.toNat), cid := .seq }] := rfl
@[simp] theorem startTxn_tkt (cmd : Bytes) (v : Validator) : (startTxn cmd v s).tkt = s.tkt := rfl
@[simp] theorem startTxn_accOvf (cmd : Bytes) (v : Validator) : (startTxn cmd v s).accOvf = s.accOvf := rfl
@[simp] theorem startTxn_st (cmd : Bytes) (v : Validator) : (startTxn cmd v s).st = .wAck := rfl
@[simp] theorem startTxn_cmd (cmd : Bytes) (v : Validator) : (startTxn cmd v s).cmd = cmd := rfl
@[simp] theorem startTxn_cv (cmd : Bytes) (v : Validator) : (startTxn cmd v s).cv = v := rfl
@[simp] theorem startTxn_hdr (cmd : Bytes) (v : Validator) : (startTxn cmd v s).hdr = [] := rfl
@[simp] theorem startTxn_extb (cmd : Bytes) (v : Validator) : (startTxn cmd v s).extb = [] := rfl
@[simp] theorem startTxn_rlen (cmd : Bytes) (v : Validator) : (startTxn cmd v s).rlen = 0 := rfl
@[simp] theorem startTxn_extf (cmd : Bytes) (v : Validator) : (startTxn cmd v s).extf = false := rfl
@[simp] theorem startTxn_body (cmd : Bytes) (v : Validator) : (startTxn cmd v s).body = [] := rfl
@[simp] theorem startTxn_bdcs (cmd : Bytes) (v : Validator) : (startTxn cmd v s).bdcs = 0x00 := rfl
@[simp] theorem startTxn_ftag (cmd : Bytes) (v : Validator) : (startTxn cmd v s).ftag = s.ftag := rfl
@[simp] theorem startTxn_fcause (cmd : Bytes) (v : Validator) : (startTxn cmd v s).fcause = s.fcause := rfl
@[simp] theorem startTxn_fstage (cmd : Bytes) (v : Validator) : (startTxn cmd v s).fstage = s.fstage := rfl
@[simp] theorem startTxn_cdl (cmd : Bytes) (v : Validator) : (startTxn cmd v s).cdl = s.cdl := rfl
@[simp] theorem startTxn_res (cmd : Bytes) (v : Validator) : (startTxn cmd v s).res = Res.zero := rfl
@[simp] theorem startTxn_timeoutMs (cmd : Bytes) (v : Validator) : (startTxn cmd v s).timeoutMs = s.timeoutMs := rfl
@[simp] theorem startTxn_out (cmd : Bytes) (v : Validator) : (startTxn cmd v s).out = s.out ++ [.flush] ++ (enc cmd).map .tx := rfl
@[simp] theorem startTxn_evt (cmd : Bytes) (v : Validator) : (startTxn cmd v s).evt = s.evt := rfl
@[simp] theorem startTxn_cfg (cmd : Bytes) (v : Validator) : (startTxn cmd v s).cfg = s.cfg := rfl
@[simp] theorem startTxn_inq (cmd : Bytes) (v : Validator) : (startTxn cmd v s).inq = s.inq := rfl
@[simp] theorem startTxn_rsp (cmd : Bytes) (v : Validator) : (startTxn cmd v s).rsp = s.rsp := rfl
@[simp] theorem startTxn_tpend (cmd : Bytes) (v : Validator) : (startTxn cmd v s).tpend = [] := rfl
@[simp] theorem startTxn_free (cmd : Bytes) (v : Validator) : (startTxn cmd v s).free = s.free := rfl

end Sys2Proof.Machine
end

