-- ==== Sys2Proof/Laws/Ops.lean ====
section
/-! SUPPORT. For each shared operation, once, everything it can do. -/

namespace Sys2Proof.Machine

/-! ### Time -/

/-- A time that fits its register is held exactly (R130). -/
theorem timeValue_of_fits {c : Config} {n : Nat} (h : Fits c n) : timeValue c n = n := by
  unfold timeValue
  split
  · rfl
  · rename_i w hw
    rw [if_pos (h w hw)]

/-- With the unbounded counter of the reference model every time is held exactly (R21). -/
theorem timeValue_unbounded {c : Config} (h : c.wTime = none) (n : Nat) : timeValue c n = n :=
  timeValue_of_fits fun w hw => by rw [h] at hw; cases hw

/-- Whatever is held has the register's width (R21). -/
theorem fits_timeValue (c : Config) (n : Nat) : Fits c (timeValue c n) := by
  intro w hw
  unfold timeValue
  rw [hw]
  dsimp only
  split
  · assumption
  · exact Nat.mod_lt _ (Nat.two_pow_pos w)

theorem Fits.mono {c : Config} {m n : Nat} (h : Fits c n) (hm : m ≤ n) : Fits c m :=
  fun w hw => Nat.lt_of_le_of_lt hm (h w hw)

/-! ### The queue -/

/-- `SVC` (R155): nothing in the queue, or the head is satisfied, has timed out, or keeps waiting. -/
theorem service_cases (s : State) :
    (s.q = [] ∧ service s = (s, none)) ∨
      ∃ e rest, s.q = e :: rest ∧
        ((e.need ≤ s.acc.length ∧
            service s = ({ s with acc := s.acc.drop e.need, q := rest }, some (satisfied e (e.acc ++ s.acc.take e.need)))) ∨
          (s.acc.length < e.need ∧ e.deadline ≤ s.now ∧
            service s = ({ s with acc := [], q := rest }, some { cid := e.cid, status := .timeout, bytes := [] })) ∨
          (s.acc.length < e.need ∧ s.now < e.deadline ∧
            service s =
              ({ s with acc := [], q := { e with need := e.need - s.acc.length, acc := e.acc ++ s.acc } :: rest }, none))) := by
  unfold service
  cases hq : s.q with
  | nil => exact .inl ⟨rfl, rfl⟩
  | cons e rest =>
    refine .inr ⟨e, rest, rfl, ?_⟩
    by_cases h : e.need ≤ s.acc.length
    · refine .inl ⟨h, ?_⟩
      simp [Nat.min_eq_left h]
    · have h' : s.acc.length < e.need := by omega
      have hm : min e.need s.acc.length = s.acc.length := by omega
      have hne : e.need - s.acc.length ≠ 0 := by omega
      by_cases hd : e.deadline ≤ s.now
      · exact .inr (.inl ⟨h', hd, by simp [hm, hne, hd]⟩)
      · exact .inr (.inr ⟨h', by omega, by simp [hm, hne, hd]⟩)

/-- A completion of a satisfied read is `ok` with the buffer, or `check-failed` with nothing (R155). -/
theorem satisfied_cases (e : Entry) (b : Bytes) :
    (evalValidator e.v b = true ∧ satisfied e b = { cid := e.cid, status := .ok, bytes := b }) ∨
      (evalValidator e.v b = false ∧ satisfied e b = { cid := e.cid, status := .checkFailed, bytes := [] }) := by
  unfold satisfied
  cases h : evalValidator e.v b <;> simp

@[simp] theorem satisfied_cid (e : Entry) (b : Bytes) : (satisfied e b).cid = e.cid := by
  rcases satisfied_cases e b with ⟨_, h⟩ | ⟨_, h⟩ <;> rw [h]

/-- `SVC` writes `ACC` and `Q` only. -/
theorem service_frame (s : State) : ∃ acc q, (service s).1 = { s with acc := acc, q := q } := by
  rcases service_cases s with ⟨_, h⟩ | ⟨e, rest, _, ⟨_, h⟩ | ⟨_, _, h⟩ | ⟨_, _, h⟩⟩ <;> rw [h]
  · exact ⟨s.acc, s.q, rfl⟩
  · exact ⟨_, _, rfl⟩
  · exact ⟨_, _, rfl⟩
  · exact ⟨_, _, rfl⟩

@[simp] theorem service_now (s : State) : (service s).1.now = s.now := by obtain ⟨_, _, h⟩ := service_frame s; rw [h]
@[simp] theorem service_tkt (s : State) : (service s).1.tkt = s.tkt := by obtain ⟨_, _, h⟩ := service_frame s; rw [h]
@[simp] theorem service_accOvf (s : State) : (service s).1.accOvf = s.accOvf := by obtain ⟨_, _, h⟩ := service_frame s; rw [h]
@[simp] theorem service_st (s : State) : (service s).1.st = s.st := by obtain ⟨_, _, h⟩ := service_frame s; rw [h]
@[simp] theorem service_cmd (s : State) : (service s).1.cmd = s.cmd := by obtain ⟨_, _, h⟩ := service_frame s; rw [h]
@[simp] theorem service_cv (s : State) : (service s).1.cv = s.cv := by obtain ⟨_, _, h⟩ := service_frame s; rw [h]
@[simp] theorem service_hdr (s : State) : (service s).1.hdr = s.hdr := by obtain ⟨_, _, h⟩ := service_frame s; rw [h]
@[simp] theorem service_extb (s : State) : (service s).1.extb = s.extb := by obtain ⟨_, _, h⟩ := service_frame s; rw [h]
@[simp] theorem service_rlen (s : State) : (service s).1.rlen = s.rlen := by obtain ⟨_, _, h⟩ := service_frame s; rw [h]
@[simp] theorem service_extf (s : State) : (service s).1.extf = s.extf := by obtain ⟨_, _, h⟩ := service_frame s; rw [h]
@[simp] theorem service_body (s : State) : (service s).1.body = s.body := by obtain ⟨_, _, h⟩ := service_frame s; rw [h]
@[simp] theorem service_bdcs (s : State) : (service s).1.bdcs = s.bdcs := by obtain ⟨_, _, h⟩ := service_frame s; rw [h]
@[simp] theorem service_ftag (s : State) : (service s).1.ftag = s.ftag := by obtain ⟨_, _, h⟩ := service_frame s; rw [h]
@[simp] theorem service_fcause (s : State) : (service s).1.fcause = s.fcause := by obtain ⟨_, _, h⟩ := service_frame s; rw [h]
@[simp] theorem service_fstage (s : State) : (service s).1.fstage = s.fstage := by obtain ⟨_, _, h⟩ := service_frame s; rw [h]
@[simp] theorem service_cdl (s : State) : (service s).1.cdl = s.cdl := by obtain ⟨_, _, h⟩ := service_frame s; rw [h]
@[simp] theorem service_res (s : State) : (service s).1.res = s.res := by obtain ⟨_, _, h⟩ := service_frame s; rw [h]
@[simp] theorem service_timeoutMs (s : State) : (service s).1.timeoutMs = s.timeoutMs := by obtain ⟨_, _, h⟩ := service_frame s; rw [h]
@[simp] theorem service_out (s : State) : (service s).1.out = s.out := by obtain ⟨_, _, h⟩ := service_frame s; rw [h]
@[simp] theorem service_evt (s : State) : (service s).1.evt = s.evt := by obtain ⟨_, _, h⟩ := service_frame s; rw [h]
@[simp] theorem service_cfg (s : State) : (service s).1.cfg = s.cfg := by obtain ⟨_, _, h⟩ := service_frame s; rw [h]
@[simp] theorem service_inq (s : State) : (service s).1.inq = s.inq := by obtain ⟨_, _, h⟩ := service_frame s; rw [h]
@[simp] theorem service_rsp (s : State) : (service s).1.rsp = s.rsp := by obtain ⟨_, _, h⟩ := service_frame s; rw [h]
@[simp] theorem service_tpend (s : State) : (service s).1.tpend = s.tpend := by obtain ⟨_, _, h⟩ := service_frame s; rw [h]
@[simp] theorem service_free (s : State) : (service s).1.free = s.free := by obtain ⟨_, _, h⟩ := service_frame s; rw [h]

/-! ### The reactions -/

/-- A state that differs from `s` in the capture registers only (R33 to R37). -/
def Captured (s s1 : State) : Prop :=
  ∃ h x e r b d, s1 = { s with hdr := h, extf := x, extb := e, rlen := r, body := b, bdcs := d }

/-- What a reaction can do: nothing outside the waiting states; fail with one of the twelve triples (R272); go on to the next
stage with its read (R180); or, from `W_TRL`, finish (R198). -/
theorem react_cases (status : Status) (bytes : Bytes) (s : State) :
    (waiting s.st = false ∧ react status bytes s = s) ∨
      (∃ tag cause s1, waiting s.st = true ∧ Captured s s1 ∧ (tag, cause, s.st) ∈ failureTriples ∧
        react status bytes s = cancelBegin tag cause s1) ∨
      (∃ n v st s1, waiting s.st = true ∧ Captured s s1 ∧ stageReads st s1.rlen = [(n, v)] ∧
        react status bytes s = { seqRead n v s1 with st := st }) ∨
      (s.st = .wTrl ∧ status = .ok ∧ bytes = [s.bdcs, 0x00] ∧ evalValidator s.cv s.body = true ∧
        react status bytes s = finishOk s) := by
  have self : Captured s s := ⟨_, _, _, _, _, _, rfl⟩
  unfold react
  cases hst : s.st
  case idle => exact .inl ⟨rfl, rfl⟩
  case cancelWait => exact .inl ⟨rfl, rfl⟩
  case wAck =>
    cases status
    case ok => exact .inr (.inr (.inl ⟨5, vPfx, .wHdr, s, rfl, self, rfl, rfl⟩))
    case timeout => exact .inr (.inl ⟨_, _, s, rfl, self, by simp [failureTriples], rfl⟩)
    case checkFailed => exact .inr (.inl ⟨_, _, s, rfl, self, by simp [failureTriples], rfl⟩)
  case wHdr =>
    cases status
    case timeout => exact .inr (.inl ⟨_, _, s, rfl, self, by simp [failureTriples], rfl⟩)
    case checkFailed => exact .inr (.inl ⟨_, _, s, rfl, self, by simp [failureTriples], rfl⟩)
    case ok =>
      simp only [reactHdr, headerSeen]
      split
      · exact .inr (.inr (.inl ⟨3, .none, .wExt, _, rfl, ⟨_, _, _, _, _, _, rfl⟩, rfl, rfl⟩))
      · split
        · exact .inr (.inl ⟨_, _, _, rfl, ⟨_, _, _, _, _, _, rfl⟩, by simp [failureTriples], rfl⟩)
        · exact .inr (.inr (.inl ⟨_, .none, .wBody, _, rfl, ⟨_, _, _, _, _, _, rfl⟩, rfl, rfl⟩))
  case wExt =>
    cases status
    case timeout => exact .inr (.inl ⟨_, _, s, rfl, self, by simp [failureTriples], rfl⟩)
    case checkFailed => exact .inr (.inl ⟨_, _, s, rfl, self, by simp [failureTriples], rfl⟩)
    case ok =>
      simp only [reactExt, extSeen]
      split
      · exact .inr (.inl ⟨_, _, _, rfl, ⟨_, _, _, _, _, _, rfl⟩, by simp [failureTriples], rfl⟩)
      · split
        · exact .inr (.inl ⟨_, _, _, rfl, ⟨_, _, _, _, _, _, rfl⟩, by simp [failureTriples], rfl⟩)
        · exact .inr (.inr (.inl ⟨_, .none, .wBody, _, rfl, ⟨_, _, _, _, _, _, rfl⟩, rfl, rfl⟩))
  case wBody =>
    cases status
    case timeout => exact .inr (.inl ⟨_, _, s, rfl, self, by simp [failureTriples], rfl⟩)
    case checkFailed => exact .inr (.inl ⟨_, _, s, rfl, self, by simp [failureTriples], rfl⟩)
    case ok => exact .inr (.inr (.inl ⟨2, .none, .wTrl, _, rfl, ⟨_, _, _, _, _, _, rfl⟩, rfl, rfl⟩))
  case wTrl =>
    cases status
    case timeout => exact .inr (.inl ⟨_, _, s, rfl, self, by simp [failureTriples], rfl⟩)
    case checkFailed => exact .inr (.inl ⟨_, _, s, rfl, self, by simp [failureTriples], rfl⟩)
    case ok =>
      simp only [reactTrl, trailerSeen]
      split
      · exact .inr (.inl ⟨_, _, s, rfl, self, by simp [failureTriples], rfl⟩)
      · split
        · exact .inr (.inl ⟨_, _, s, rfl, self, by simp [failureTriples], rfl⟩)
        · rename_i h1 h2
          exact .inr (.inr (.inr ⟨trivial, trivial, by simpa using h1, by simpa using h2, rfl⟩))

/-! What a reaction leaves unchanged. -/

@[simp] theorem react_now (status : Status) (bytes : Bytes) (s : State) : (react status bytes s).now = s.now := by
  rcases react_cases status bytes s with
    ⟨_, h⟩ | ⟨_, _, _, _, ⟨_, _, _, _, _, _, rfl⟩, _, h⟩ |
    ⟨_, _, _, _, _, ⟨_, _, _, _, _, _, rfl⟩, _, h⟩ | ⟨_, _, _, _, h⟩ <;> simp [h, seqRead]
@[simp] theorem react_acc (status : Status) (bytes : Bytes) (s : State) : (react status bytes s).acc = s.acc := by
  rcases react_cases status bytes s with
    ⟨_, h⟩ | ⟨_, _, _, _, ⟨_, _, _, _, _, _, rfl⟩, _, h⟩ |
    ⟨_, _, _, _, _, ⟨_, _, _, _, _, _, rfl⟩, _, h⟩ | ⟨_, _, _, _, h⟩ <;> simp [h, seqRead]
@[simp] theorem react_tkt (status : Status) (bytes : Bytes) (s : State) : (react status bytes s).tkt = s.tkt := by
  rcases react_cases status bytes s with
    ⟨_, h⟩ | ⟨_, _, _, _, ⟨_, _, _, _, _, _, rfl⟩, _, h⟩ |
    ⟨_, _, _, _, _, ⟨_, _, _, _, _, _, rfl⟩, _, h⟩ | ⟨_, _, _, _, h⟩ <;> simp [h, seqRead]
@[simp] theorem react_accOvf (status : Status) (bytes : Bytes) (s : State) : (react status bytes s).accOvf = s.accOvf := by
  rcases react_cases status bytes s with
    ⟨_, h⟩ | ⟨_, _, _, _, ⟨_, _, _, _, _, _, rfl⟩, _, h⟩ |
    ⟨_, _, _, _, _, ⟨_, _, _, _, _, _, rfl⟩, _, h⟩ | ⟨_, _, _, _, h⟩ <;> simp [h, seqRead]
@[simp] theorem react_cmd (status : Status) (bytes : Bytes) (s : State) : (react status bytes s).cmd = s.cmd := by
  rcases react_cases status bytes s with
    ⟨_, h⟩ | ⟨_, _, _, _, ⟨_, _, _, _, _, _, rfl⟩, _, h⟩ |
    ⟨_, _, _, _, _, ⟨_, _, _, _, _, _, rfl⟩, _, h⟩ | ⟨_, _, _, _, h⟩ <;> simp [h, seqRead]
@[simp] theorem react_cv (status : Status) (bytes : Bytes) (s : State) : (react status bytes s).cv = s.cv := by
  rcases react_cases status bytes s with
    ⟨_, h⟩ | ⟨_, _, _, _, ⟨_, _, _, _, _, _, rfl⟩, _, h⟩ |
    ⟨_, _, _, _, _, ⟨_, _, _, _, _, _, rfl⟩, _, h⟩ | ⟨_, _, _, _, h⟩ <;> simp [h, seqRead]
@[simp] theorem react_timeoutMs (status : Status) (bytes : Bytes) (s : State) : (react status bytes s).timeoutMs = s.timeoutMs := by
  rcases react_cases status bytes s with
    ⟨_, h⟩ | ⟨_, _, _, _, ⟨_, _, _, _, _, _, rfl⟩, _, h⟩ |
    ⟨_, _, _, _, _, ⟨_, _, _, _, _, _, rfl⟩, _, h⟩ | ⟨_, _, _, _, h⟩ <;> simp [h, seqRead]
@[simp] theorem react_cfg (status : Status) (bytes : Bytes) (s : State) : (react status bytes s).cfg = s.cfg := by
  rcases react_cases status bytes s with
    ⟨_, h⟩ | ⟨_, _, _, _, ⟨_, _, _, _, _, _, rfl⟩, _, h⟩ |
    ⟨_, _, _, _, _, ⟨_, _, _, _, _, _, rfl⟩, _, h⟩ | ⟨_, _, _, _, h⟩ <;> simp [h, seqRead]
@[simp] theorem react_inq (status : Status) (bytes : Bytes) (s : State) : (react status bytes s).inq = s.inq := by
  rcases react_cases status bytes s with
    ⟨_, h⟩ | ⟨_, _, _, _, ⟨_, _, _, _, _, _, rfl⟩, _, h⟩ |
    ⟨_, _, _, _, _, ⟨_, _, _, _, _, _, rfl⟩, _, h⟩ | ⟨_, _, _, _, h⟩ <;> simp [h, seqRead]
@[simp] theorem react_rsp (status : Status) (bytes : Bytes) (s : State) : (react status bytes s).rsp = s.rsp := by
  rcases react_cases status bytes s with
    ⟨_, h⟩ | ⟨_, _, _, _, ⟨_, _, _, _, _, _, rfl⟩, _, h⟩ |
    ⟨_, _, _, _, _, ⟨_, _, _, _, _, _, rfl⟩, _, h⟩ | ⟨_, _, _, _, h⟩ <;> simp [h, seqRead]
@[simp] theorem react_tpend (status : Status) (bytes : Bytes) (s : State) : (react status bytes s).tpend = s.tpend := by
  rcases react_cases status bytes s with
    ⟨_, h⟩ | ⟨_, _, _, _, ⟨_, _, _, _, _, _, rfl⟩, _, h⟩ |
    ⟨_, _, _, _, _, ⟨_, _, _, _, _, _, rfl⟩, _, h⟩ | ⟨_, _, _, _, h⟩ <;> simp [h, seqRead]
@[simp] theorem react_free (status : Status) (bytes : Bytes) (s : State) : (react status bytes s).free = s.free := by
  rcases react_cases status bytes s with
    ⟨_, h⟩ | ⟨_, _, _, _, ⟨_, _, _, _, _, _, rfl⟩, _, h⟩ |
    ⟨_, _, _, _, _, ⟨_, _, _, _, _, _, rfl⟩, _, h⟩ | ⟨_, _, _, _, h⟩ <;> simp [h, seqRead]

/-! ### The tick -/


@[simp] theorem deliver_none (s : State) : deliver none s = s := rfl

@[simp] theorem deliver_raw (t : BitVec 16) (status : Status) (bytes : Bytes) (s : State) :
    deliver (some { cid := .raw t, status := status, bytes := bytes }) s = emitEvt (.rawdone t status bytes) s := rfl

@[simp] theorem deliver_seq (status : Status) (bytes : Bytes) (s : State) :
    deliver (some { cid := .seq, status := status, bytes := bytes }) s = react status bytes s := rfl

/-! What a delivery leaves unchanged. -/

@[simp] theorem deliver_now (c : Option Completion) (s : State) : (deliver c s).now = s.now := by
  rcases c with _ | ⟨_ | _, _, _⟩ <;> first | rfl | exact react_now _ _ s
@[simp] theorem deliver_acc (c : Option Completion) (s : State) : (deliver c s).acc = s.acc := by
  rcases c with _ | ⟨_ | _, _, _⟩ <;> first | rfl | exact react_acc _ _ s
@[simp] theorem deliver_tkt (c : Option Completion) (s : State) : (deliver c s).tkt = s.tkt := by
  rcases c with _ | ⟨_ | _, _, _⟩ <;> first | rfl | exact react_tkt _ _ s
@[simp] theorem deliver_accOvf (c : Option Completion) (s : State) : (deliver c s).accOvf = s.accOvf := by
  rcases c with _ | ⟨_ | _, _, _⟩ <;> first | rfl | exact react_accOvf _ _ s
@[simp] theorem deliver_cmd (c : Option Completion) (s : State) : (deliver c s).cmd = s.cmd := by
  rcases c with _ | ⟨_ | _, _, _⟩ <;> first | rfl | exact react_cmd _ _ s
@[simp] theorem deliver_cv (c : Option Completion) (s : State) : (deliver c s).cv = s.cv := by
  rcases c with _ | ⟨_ | _, _, _⟩ <;> first | rfl | exact react_cv _ _ s
@[simp] theorem deliver_timeoutMs (c : Option Completion) (s : State) : (deliver c s).timeoutMs = s.timeoutMs := by
  rcases c with _ | ⟨_ | _, _, _⟩ <;> first | rfl | exact react_timeoutMs _ _ s
@[simp] theorem deliver_cfg (c : Option Completion) (s : State) : (deliver c s).cfg = s.cfg := by
  rcases c with _ | ⟨_ | _, _, _⟩ <;> first | rfl | exact react_cfg _ _ s
@[simp] theorem deliver_inq (c : Option Completion) (s : State) : (deliver c s).inq = s.inq := by
  rcases c with _ | ⟨_ | _, _, _⟩ <;> first | rfl | exact react_inq _ _ s
@[simp] theorem deliver_rsp (c : Option Completion) (s : State) : (deliver c s).rsp = s.rsp := by
  rcases c with _ | ⟨_ | _, _, _⟩ <;> first | rfl | exact react_rsp _ _ s
@[simp] theorem deliver_tpend (c : Option Completion) (s : State) : (deliver c s).tpend = s.tpend := by
  rcases c with _ | ⟨_ | _, _, _⟩ <;> first | rfl | exact react_tpend _ _ s
@[simp] theorem deliver_free (c : Option Completion) (s : State) : (deliver c s).free = s.free := by
  rcases c with _ | ⟨_ | _, _, _⟩ <;> first | rfl | exact react_free _ _ s

/-- The tick once its `SVC` has answered (R200). -/
theorem tick_of_service {s s1 : State} {c : Option Completion} (h : service (advance s) = (s1, c)) :
    tick s =
      if s.st = .cancelWait ∧ (deliver c s1).cdl ≤ (deliver c s1).now then cancelFinish (deliver c s1)
      else deliver c s1 := by
  unfold tick; rw [h]

/-- Outside `CANCEL_WAIT` a tick is the delivery of what its `SVC` returned (R200). -/
theorem tick_of_ne {s : State} (h : s.st ≠ .cancelWait) :
    tick s = deliver (service (advance s)).2 (service (advance s)).1 := by
  simp [tick, h]

/-- In `CANCEL_WAIT` a delivery is nothing, or the `RAWDONE` of a raw read: no reaction is waiting (R200). -/
theorem deliver_cancelWait (c : Option Completion) {s : State} (h : s.st = .cancelWait) :
    ∃ l : List EvtItem, deliver c s = { s with evt := s.evt ++ l } ∧
      (l = [] ∨ ∃ k status bytes, c = some { cid := .raw k, status := status, bytes := bytes } ∧ l = [.rawdone k status bytes]) := by
  rcases c with _ | ⟨_ | k, status, bytes⟩
  · exact ⟨[], by simp, .inl rfl⟩
  · refine ⟨[], ?_, .inl rfl⟩
    have hr : react status bytes s = s := by unfold react; rw [h]
    rw [deliver_seq, hr, List.append_nil]
  · exact ⟨_, rfl, .inr ⟨k, status, bytes, rfl, rfl⟩⟩

/-- In `CANCEL_WAIT` a tick ends the wait once it is over, after the delivery (R200). -/
theorem tick_of_cancelWait {s : State} (h : s.st = .cancelWait) :
    tick s =
      if s.cdl ≤ timeValue s.cfg (s.now + s.cfg.tickMs) then cancelFinish (deliver (service (advance s)).2 (service (advance s)).1)
      else deliver (service (advance s)).2 (service (advance s)).1 := by
  obtain ⟨acc, q, hs⟩ := service_frame (advance s)
  obtain ⟨l, hd, _⟩ := deliver_cancelWait (service (advance s)).2 (s := (service (advance s)).1) (by rw [hs]; exact h)
  rw [tick, hd, hs]
  simp [h, advance]

/-! What a tick leaves unchanged. -/

@[simp] theorem tick_now (s : State) : (tick s).now = timeValue s.cfg (s.now + s.cfg.tickMs) := by unfold tick; simp only; split <;> simp
@[simp] theorem tick_cfg (s : State) : (tick s).cfg = s.cfg := by unfold tick; simp only; split <;> simp
@[simp] theorem tick_accOvf (s : State) : (tick s).accOvf = s.accOvf := by unfold tick; simp only; split <;> simp
@[simp] theorem tick_timeoutMs (s : State) : (tick s).timeoutMs = s.timeoutMs := by unfold tick; simp only; split <;> simp
@[simp] theorem tick_tkt (s : State) : (tick s).tkt = s.tkt := by unfold tick; simp only; split <;> simp
@[simp] theorem tick_cmd (s : State) : (tick s).cmd = s.cmd := by unfold tick; simp only; split <;> simp
@[simp] theorem tick_cv (s : State) : (tick s).cv = s.cv := by unfold tick; simp only; split <;> simp
@[simp] theorem tick_inq (s : State) : (tick s).inq = s.inq := by unfold tick; simp only; split <;> simp

/-! ### The host port -/

/-- What `EXEC` can do (R182, R236). -/
theorem hostExec_cases (cmd : Bytes) (va : VArg) (s : State) :
    (∃ r, hostExec cmd va s = refuse r s) ∨
      ∃ v, loadValidator seqPatCap va = some v ∧ s.st = .idle ∧ cmd.length ≤ s.cfg.cmdCap ∧ s.q.length < s.cfg.qDepth ∧
        hostExec cmd va s = answer .accepted (startTxn cmd v s) := by
  unfold hostExec
  split
  · exact .inl ⟨_, rfl⟩
  · split; · exact .inl ⟨_, rfl⟩
    split; · exact .inl ⟨_, rfl⟩
    split; · exact .inl ⟨_, rfl⟩
    rename_i v hv h1 h2 h3
    exact .inr ⟨v, hv, by simpa using h1, by omega, by omega, rfl⟩

/-- What `ENQ` can do (R152, R236). -/
theorem hostEnq_cases (n : BitVec 16) (va : VArg) (t : BitVec 32) (s : State) :
    (∃ r, hostEnq n va t s = refuse r s) ∨
      ∃ v, loadValidator s.cfg.rawPatCap va = some v ∧ s.q.length < s.cfg.qDepth ∧
        hostEnq n va t s = answer (.ticket s.tkt) (enqueue n.toNat v t (.raw s.tkt) { s with tkt := s.tkt + 1 }) := by
  unfold hostEnq
  split
  · exact .inl ⟨_, rfl⟩
  · split; · exact .inl ⟨_, rfl⟩
    rename_i v hv h1
    exact .inr ⟨v, hv, by omega, rfl⟩

end Sys2Proof.Machine
end

