-- ==== Sys2Proof/Laws/PerInstr.lean ====
section
/-! SUPPORT. The family `HasCode`: an instruction has a code exactly when the opcode table does not call it internal (R110). -/

namespace Sys2Proof.Laws.HasCode

/-- The rows the table calls internal: "no selecting bits". -/
def internal : Instr → Bool
  | .frameNormal _ _ => false
  | .frameExtended _ _ => false
  | .frameAck => false
  | .frameCancel => false
  | .rxAck => false
  | .rxHdrExt => false
  | .rxHdrNormal _ _ => false
  | .rxHdrBad _ _ _ _ _ => false
  | .rxExt _ _ _ => false
  | .rxBody _ => false
  | .rxTrl _ => false
  | .nop => false
  | .exec _ _ => false
  | .hostEnq _ _ _ => false
  | .cfgw _ => false
  | .reset => false
  | .reserved4 => false
  | .reserved5 => false
  | .reserved6 => false
  | .reserved7 => false
  | .reserved8 => false
  | .reserved9 => false
  | .reservedA => false
  | .reservedB => false
  | .reservedC => false
  | .reservedD => false
  | .reservedE => false
  | .rxb _ => false
  | .tick => false
  | .svc => true
  | .val _ _ => true
  | .aclr => true
  | .enq _ _ _ _ => true
  | .sAck _ _ => true
  | .sHdr _ _ => true
  | .sExt _ _ => true
  | .sBody _ _ => true
  | .sTrl _ _ => true
  | .finishOk => true
  | .cancelBegin _ _ => true
  | .cancelFinish => true
  | .csum _ => true
  | .encn _ => true
  | .encx _ => true
  | .enc _ => true
  | .isack _ => true
  | .dech _ => true
  | .decx _ => true
  | .chkt _ _ => true
  | .decf _ => true

def Statement (i : Instr) : Prop := (encode i).isNone = internal i

theorem frameNormal (d : Dir) (p : Bytes) : Statement (.frameNormal d p) := by cases d <;> rfl
theorem frameExtended (d : Dir) (p : Bytes) : Statement (.frameExtended d p) := by cases d <;> rfl
theorem frameAck : Statement .frameAck := rfl
theorem frameCancel : Statement .frameCancel := rfl
theorem rxAck : Statement .rxAck := rfl
theorem rxHdrExt : Statement .rxHdrExt := rfl
theorem rxHdrNormal (len lcs : Byte) : Statement (.rxHdrNormal len lcs) := rfl
theorem rxHdrBad (b0 b1 b2 b3 b4 : Byte) : Statement (.rxHdrBad b0 b1 b2 b3 b4) := rfl
theorem rxExt (hi lo lcs : Byte) : Statement (.rxExt hi lo lcs) := rfl
theorem rxBody (p : Bytes) : Statement (.rxBody p) := rfl
theorem rxTrl (dcs : Byte) : Statement (.rxTrl dcs) := rfl
theorem nop : Statement .nop := rfl
theorem exec (cmd : Bytes) (v : VArg) : Statement (.exec cmd v) := rfl
theorem hostEnq (n : BitVec 16) (v : VArg) (t : BitVec 32) : Statement (.hostEnq n v t) := rfl
theorem cfgw (value : BitVec 32) : Statement (.cfgw value) := rfl
theorem reset : Statement .reset := rfl
theorem reserved4 : Statement .reserved4 := rfl
theorem reserved5 : Statement .reserved5 := rfl
theorem reserved6 : Statement .reserved6 := rfl
theorem reserved7 : Statement .reserved7 := rfl
theorem reserved8 : Statement .reserved8 := rfl
theorem reserved9 : Statement .reserved9 := rfl
theorem reservedA : Statement .reservedA := rfl
theorem reservedB : Statement .reservedB := rfl
theorem reservedC : Statement .reservedC := rfl
theorem reservedD : Statement .reservedD := rfl
theorem reservedE : Statement .reservedE := rfl
theorem rxb (c : Bytes) : Statement (.rxb c) := rfl
theorem tick : Statement .tick := rfl
theorem svc : Statement .svc := rfl
theorem val (v : Validator) (b : Bytes) : Statement (.val v b) := rfl
theorem aclr : Statement .aclr := rfl
theorem enq (n : Nat) (v : Validator) (t : BitVec 32) (cid : Cid) : Statement (.enq n v t cid) := rfl
theorem sAck (status : Status) (bytes : Bytes) : Statement (.sAck status bytes) := rfl
theorem sHdr (status : Status) (bytes : Bytes) : Statement (.sHdr status bytes) := rfl
theorem sExt (status : Status) (bytes : Bytes) : Statement (.sExt status bytes) := rfl
theorem sBody (status : Status) (bytes : Bytes) : Statement (.sBody status bytes) := rfl
theorem sTrl (status : Status) (bytes : Bytes) : Statement (.sTrl status bytes) := rfl
theorem finishOk : Statement .finishOk := rfl
theorem cancelBegin (tag : Tag) (cause : Status) : Statement (.cancelBegin tag cause) := rfl
theorem cancelFinish : Statement .cancelFinish := rfl
theorem csum (s : Bytes) : Statement (.csum s) := rfl
theorem encn (p : Bytes) : Statement (.encn p) := rfl
theorem encx (p : Bytes) : Statement (.encx p) := rfl
theorem enc (p : Bytes) : Statement (.enc p) := rfl
theorem isack (s : Bytes) : Statement (.isack s) := rfl
theorem dech (h : Bytes) : Statement (.dech h) := rfl
theorem decx (e : Bytes) : Statement (.decx e) := rfl
theorem chkt (b t : Bytes) : Statement (.chkt b t) := rfl
theorem decf (f : Bytes) : Statement (.decf f) := rfl

end Sys2Proof.Laws.HasCode
end

