-- ==== Sys2Proof/Laws/Step.lean ====
section
/-! SUPPORT. What one step can do. -/

namespace Sys2Proof.Machine

/-- A chunk that is exactly one frame is run by its frame row, any other by RXB; the effect is that of RXB (R61, R154). -/
theorem exec_decodeChunk (c : Bytes) (s : State) : exec (decodeChunk c) s = .next (answer .none (receive c s)) := by
  unfold decodeChunk decodeReceived
  by_cases ha : isack c
  · have hc : c = ackFrame := by simpa [isack] using ha
    subst hc
    rfl
  · simp only [ha, Bool.false_eq_true, if_false]
    cases h : decf c with
    | err e => rfl
    | ok p =>
      obtain ⟨_, ⟨hx, hp, hc⟩ | ⟨hx, hp, hc⟩⟩ := decfWith_ok (limit := maxRespLen) h
      · simp only [dataFrame, hx, Bool.false_eq_true, if_false, exec, execFrameNormal, hp, if_true, crossBoundary, ← hc]
      · have hp' : p.length ≤ maxExtLen := hp
        simp only [dataFrame, hx, if_true, exec, execFrameExtended, hp', crossBoundary, ← hc]

/-- What an operation of the host port can do (R236): be refused; `NOP`; start a transaction; enqueue a raw read; write
`TIMEOUT_MS`; reset. -/
theorem exec_decodeHost_cases (h : HostCmd) (s : State) :
    (∃ r, h.op ≠ 0x0 ∧ h.op ≠ 0x3 ∧ h.op ≠ 0xF ∧ exec (decodeHost h) s = .next (refuse r s)) ∨
      (h.op = 0x0 ∧ exec (decodeHost h) s = .next (answer .accepted s)) ∨
      (∃ v, h.op = 0x1 ∧ loadValidator seqPatCap (decodeVArg h) = some v ∧ s.st = .idle ∧ h.cmd.length ≤ s.cfg.cmdCap ∧
        s.q.length < s.cfg.qDepth ∧ exec (decodeHost h) s = .next (answer .accepted (startTxn h.cmd v s))) ∨
      (∃ v, h.op = 0x2 ∧ loadValidator s.cfg.rawPatCap (decodeVArg h) = some v ∧ s.q.length < s.cfg.qDepth ∧
        exec (decodeHost h) s =
          .next (answer (.ticket s.tkt) (enqueue h.count.toNat v h.value (.raw s.tkt) { s with tkt := s.tkt + 1 }))) ∨
      (h.op = 0x3 ∧ exec (decodeHost h) s = .next (answer .accepted { s with timeoutMs := h.value })) ∨
      (h.op = 0xF ∧ exec (decodeHost h) s = .next (answer .accepted (hardReset s))) := by
  obtain ⟨op, k, pat, pr, cmd, n, val⟩ := h
  have hop : op = 0 ∨ op = 1 ∨ op = 2 ∨ op = 3 ∨ op = 4 ∨ op = 5 ∨ op = 6 ∨ op = 7 ∨ op = 8 ∨ op = 9 ∨ op = 10 ∨ op = 11 ∨
      op = 12 ∨ op = 13 ∨ op = 14 ∨ op = 15 := by
    revert op; decide
  rcases hop with rfl | rfl | rfl | rfl | rfl | rfl | rfl | rfl | rfl | rfl | rfl | rfl | rfl | rfl | rfl | rfl
  case inl => exact .inr (.inl ⟨rfl, rfl⟩)
  case inr.inl =>
    rcases hostExec_cases cmd (decodeVArg ⟨1, k, pat, pr, cmd, n, val⟩) s with ⟨r, hr⟩ | ⟨v, hv, h1, h2, h3, he⟩
    · exact .inl ⟨r, by simp, by simp, by simp, congrArg Host.Outcome.next hr⟩
    · exact .inr (.inr (.inl ⟨v, rfl, hv, h1, h2, h3, congrArg Host.Outcome.next he⟩))
  case inr.inr.inl =>
    rcases hostEnq_cases n (decodeVArg ⟨2, k, pat, pr, cmd, n, val⟩) val s with ⟨r, hr⟩ | ⟨v, hv, h1, he⟩
    · exact .inl ⟨r, by simp, by simp, by simp, congrArg Host.Outcome.next hr⟩
    · exact .inr (.inr (.inr (.inl ⟨v, rfl, hv, h1, congrArg Host.Outcome.next he⟩)))
  case inr.inr.inr.inl => exact .inr (.inr (.inr (.inr (.inl ⟨rfl, rfl⟩))))
  all_goals first
    | exact .inl ⟨.badOp, by simp, by simp, by simp, rfl⟩
    | exact .inr (.inr (.inr (.inr (.inr ⟨rfl, rfl⟩))))

/-- A chunk that waits first is appended to `ACC` (R154). -/
theorem step_rx {s : State} {c : Bytes} {l : List Event} (h : s.inq = .rx c :: l) :
    step s = .next (answer .none (receive c { s with inq := l })) := by
  simp only [step, fetch, h, exec_decodeChunk]

/-- A tick that waits first runs (R200). -/
theorem step_tick {s : State} {l : List Event} (h : s.inq = .tick :: l) :
    step s = .next (answer .none (tick { s with inq := l })) := by
  simp only [step, fetch, h]
  rfl

/-- What a step can do, event by event. -/
inductive StepCase (s : State) : State → Prop where
  | idle : s.inq = [] → StepCase s s
  | reader (bs l) : s.inq = .reader bs :: l → StepCase s { s with inq := l, tpend := s.tpend ++ bs }
  | noDelivery (n l) : s.inq = .deliver n :: l → ¬ (0 < n ∧ n ≤ s.tpend.length) → StepCase s { s with inq := l }
  | delivery (n l) : s.inq = .deliver n :: l → 0 < n → n ≤ s.tpend.length →
      StepCase s (answer .none (receive (s.tpend.take n) { s with inq := l, tpend := s.tpend.drop n }))
  | chunk (c l) : s.inq = .rx c :: l → StepCase s (answer .none (receive c { s with inq := l }))
  | tick (l) : s.inq = .tick :: l → StepCase s (answer .none (tick { s with inq := l }))
  | refused (h l r) : s.inq = .host h :: l → h.op ≠ 0x0 → h.op ≠ 0x3 → h.op ≠ 0xF →
      StepCase s (refuse r { s with inq := l })
  | nop (h l) : s.inq = .host h :: l → h.op = 0x0 → StepCase s (answer .accepted { s with inq := l })
  | exec (h l v) : s.inq = .host h :: l → h.op = 0x1 → loadValidator seqPatCap (decodeVArg h) = some v → s.st = .idle →
      h.cmd.length ≤ s.cfg.cmdCap → s.q.length < s.cfg.qDepth →
      StepCase s (answer .accepted (startTxn h.cmd v { s with inq := l }))
  | enq (h l v) : s.inq = .host h :: l → h.op = 0x2 → loadValidator s.cfg.rawPatCap (decodeVArg h) = some v →
      s.q.length < s.cfg.qDepth →
      StepCase s (answer (.ticket s.tkt)
        (enqueue h.count.toNat v h.value (.raw s.tkt) { s with inq := l, tkt := s.tkt + 1 }))
  | cfgw (h l) : s.inq = .host h :: l → h.op = 0x3 → StepCase s (answer .accepted { s with inq := l, timeoutMs := h.value })
  | reset (h l) : s.inq = .host h :: l → h.op = 0xF → StepCase s (answer .accepted (hardReset { s with inq := l }))

/-- Every step is one of these cases. -/
theorem step_cases {s t : State} (h : step s = .next t) : StepCase s t := by
  unfold step fetch at h
  cases hq : s.inq with
  | nil =>
    rw [hq] at h
    cases h
    exact .idle hq
  | cons e l =>
    rw [hq] at h
    cases e with
    | reader bs => cases h; exact .reader bs l hq
    | tick => cases h; exact .tick l hq
    | rx c =>
      simp only [exec_decodeChunk] at h
      cases h
      exact .chunk c l hq
    | deliver n =>
      simp only at h
      by_cases hn : 0 < n ∧ n ≤ s.tpend.length
      · simp only [hn, and_self, if_true, exec_decodeChunk] at h
        cases h
        exact .delivery n l hq hn.1 hn.2
      · simp only [hn, if_false] at h
        cases h
        exact .noDelivery n l hq hn
    | host hc =>
      simp only at h
      rcases exec_decodeHost_cases hc { s with inq := l } with
        ⟨r, h0, h3, hf, he⟩ | ⟨ho, he⟩ | ⟨v, ho, hv, h1, h2, h3, he⟩ | ⟨v, ho, hv, h1, he⟩ | ⟨ho, he⟩ | ⟨ho, he⟩ <;>
        rw [he] at h <;> cases h
      · exact .refused hc l r hq h0 h3 hf
      · exact .nop hc l hq ho
      · exact .exec hc l v hq ho hv h1 h2 h3
      · exact .enq hc l v hq ho hv h1
      · exact .cfgw hc l hq ho
      · exact .reset hc l hq ho

end Sys2Proof.Machine
end

