-- ==== Sys2Proof/Tests/Slice0.lean ====
section
/-! SUPPORT. The model's own tests: ill-formed terms are refused; words written out from the spec decode to the rows they stand
for; one step against the vectors of 95_test_vectors.md; and, for each statement with hypotheses, a state that meets them. -/

namespace Sys2Proof.Tests

open Sys2Proof Sys2Proof.Machine

/-! ### Helpers -/

/-- The next state an instruction answers. -/
def after (i : Instr) (s : State) : Option State :=
  match exec i s with
  | .next t => some t
  | .fault _ => none
  | .refused _ => none

/-- What an instruction hands back. -/
def rspOf (i : Instr) (s : State) : Option Rsp := (after i s).map (·.rsp)

/-- The state of the vectors of 2.9: `NOW` 50, the stage `st`, its read already taken. -/
def at50 (st : SeqState) : State := { State.reset with now := 50, st := st }

/-- The state before the tick that gives 2.9's completion: `NOW` 40, the read of the stage at the head, `ACC` as given. -/
def before (st : SeqState) (n : Nat) (v : Validator) (dl : Nat) (acc : Bytes) : State :=
  { State.reset with
    now := 40, st := st, acc := acc, q := [{ need := n, acc := [], v := v, deadline := dl, cid := .seq }], inq := [.tick] }

/-- The cancel that 2.9 describes, read off a state: tag, cause, stage, `CDL`, `ST`. -/
def cancelOf (s : State) : Tag × Status × SeqState × Nat × SeqState := (s.ftag, s.fcause, s.fstage, s.cdl, s.st)

/-- An entry of the raw port. -/
def rawEntry (n : Nat) (v : Validator) (dl : Nat) (k : BitVec 16) : Entry :=
  { need := n, acc := [], v := v, deadline := dl, cid := .raw k }

/-- The reply frame of 1.3. -/
def reply : Bytes := [0x00, 0x00, 0xFF, 0x02, 0xFE, 0xD5, 0x33, 0xF8, 0x00]

/-! ### WellFormed: an ill-formed term for each check -/

theorem test_wf_frameNormal_long : (Instr.frameNormal .toReader (List.replicate 256 0x00)).wf = false := by simp only [Instr.wf, List.length_replicate]; decide
theorem test_wf_frameExtended_short : (Instr.frameExtended .toReader (List.replicate 255 0x00)).wf = false := by simp only [Instr.wf, List.length_replicate]; decide
theorem test_wf_frameExtended_received_long : (Instr.frameExtended .toHost (List.replicate 266 0x00)).wf = false := by simp only [Instr.wf, List.length_replicate]; decide
theorem test_wf_rxHdrNormal_marker : (Instr.rxHdrNormal 0xFF 0xFF).wf = false := by decide
theorem test_wf_rxHdrBad_preamble : (Instr.rxHdrBad 0x00 0x00 0xFF 0x02 0xFE).wf = false := by decide
theorem test_wf_rxBody_long : (Instr.rxBody (List.replicate 266 0x00)).wf = false := by simp only [Instr.wf, List.length_replicate]; decide
theorem test_wf_enq_count : (Instr.enq 65536 .none 0 .seq).wf = false := by decide
theorem test_wf_sAck_length : (Instr.sAck .ok [0x00]).wf = false := by decide
theorem test_wf_sHdr_timeout_bytes : (Instr.sHdr .timeout [0x00]).wf = false := by decide
theorem test_wf_sExt_checkFailed : (Instr.sExt .checkFailed []).wf = false := by decide
theorem test_wf_sBody_long : (Instr.sBody .ok (List.replicate 266 0x00)).wf = false := by simp only [Instr.wf, List.length_replicate]; decide
theorem test_wf_sBody_checkFailed : (Instr.sBody .checkFailed []).wf = false := by decide
theorem test_wf_sTrl_length : (Instr.sTrl .ok [0xF8]).wf = false := by decide
theorem test_wf_cancelBegin_ok : (Instr.cancelBegin .ok .ok).wf = false := by decide
theorem test_wf_encn_long : (Instr.encn (List.replicate 256 0x00)).wf = false := by simp only [Instr.wf, List.length_replicate]; decide
theorem test_wf_dech_length : (Instr.dech [0x00, 0x00, 0xFF, 0x02]).wf = false := by decide
theorem test_wf_decx_length : (Instr.decx [0x00, 0x02]).wf = false := by decide
theorem test_wf_chkt_length : (Instr.chkt [] [0x00]).wf = false := by decide
theorem test_wf_accepts :
    (Instr.frameNormal .toHost [0xD5, 0x33]).wf = true ∧ (Instr.rxHdrNormal 0xFF 0x01).wf = true ∧
      (Instr.sHdr .ok [0x00, 0x00, 0xFF, 0x02, 0xFE]).wf = true ∧ (Instr.cancelBegin .timeout .timeout).wf = true := by decide

/-! ### Decode: words written out from 30_encoding.md -/

/-- R92, vector 1.3: the reply `D5 33`. -/
theorem test_decode_frameNormal_received : decode (.event (.rx reply)) = .ok (.frameNormal .toHost [0xD5, 0x33]) := by decide
/-- R92, vector 1.3: the command `D4 32 81 B7`. -/
theorem test_decode_frameNormal_sent :
    decode (.sent [0x00, 0x00, 0xFF, 0x04, 0xFC, 0xD4, 0x32, 0x81, 0xB7, 0xC2, 0x00]) =
      .ok (.frameNormal .toReader [0xD4, 0x32, 0x81, 0xB7]) := by decide
/-- R93, vector 2.6: the extended form with a short length. -/
theorem test_decode_frameExtended :
    decode (.event (.rx [0x00, 0x00, 0xFF, 0xFF, 0xFF, 0x00, 0x02, 0xFE, 0xD5, 0x33, 0xF8, 0x00])) =
      .ok (.frameExtended .toHost [0xD5, 0x33]) := by decide
/-- R94. -/
theorem test_decode_frameAck : decode (.event (.rx [0x00, 0x00, 0xFF, 0x00, 0xFF, 0x00])) = .ok .frameAck := by decide
/-- R95. -/
theorem test_decode_frameCancel : decode (.sent [0x00, 0x00, 0xFF, 0x00, 0xFF, 0x00]) = .ok .frameCancel := by decide
/-- R112: the block never sends the extended form for 255 bytes or fewer. -/
theorem test_decode_sent_not_canonical :
    decode (.sent [0x00, 0x00, 0xFF, 0xFF, 0xFF, 0x00, 0x00, 0x00, 0x00, 0x00]) = .rejected .notCanonical := by decide
/-- R101, R103. -/
theorem test_decode_rxAck : decode (.piece .wAck 0 [0x00, 0x00, 0xFF, 0x00, 0xFF, 0x00]) = .ok .rxAck := by decide
theorem test_decode_rxAck_other : decode (.piece .wAck 0 [0x00, 0x00, 0xFF, 0x00, 0xFF, 0x01]) = .rejected .notTheAck := by decide
/-- R102: the marker. -/
theorem test_decode_rxHdrExt : decode (.piece .wHdr 0 [0x00, 0x00, 0xFF, 0xFF, 0xFF]) = .ok .rxHdrExt := by decide
/-- R102: `FF 01` is a normal header. -/
theorem test_decode_rxHdrNormal : decode (.piece .wHdr 0 [0x00, 0x00, 0xFF, 0xFF, 0x01]) = .ok (.rxHdrNormal 0xFF 0x01) := by decide
/-- R103, vector 2.5. -/
theorem test_decode_rxHdrBad :
    decode (.piece .wHdr 0 [0x00, 0xFF, 0x02, 0xFE, 0xD5]) = .ok (.rxHdrBad 0x00 0xFF 0x02 0xFE 0xD5) := by decide
/-- R101: three bytes in `W_EXT`. -/
theorem test_decode_rxExt : decode (.piece .wExt 0 [0x01, 0x09, 0xF6]) = .ok (.rxExt 0x01 0x09 0xF6) := by decide
/-- R101: `RLEN` bytes in `W_BODY`. -/
theorem test_decode_rxBody : decode (.piece .wBody 2 [0xD5, 0x33]) = .ok (.rxBody [0xD5, 0x33]) := by decide
theorem test_decode_rxBody_length : decode (.piece .wBody 3 [0xD5, 0x33]) = .rejected .pieceLength := by decide
/-- R101, R99. -/
theorem test_decode_rxTrl : decode (.piece .wTrl 0 [0xF8, 0x00]) = .ok (.rxTrl 0xF8) := by decide
theorem test_decode_rxTrl_postamble : decode (.piece .wTrl 0 [0xF8, 0x01]) = .rejected .badPostamble := by decide
/-- R106: `cmd_op` 0 to 3 and F, each with its operands. -/
theorem test_decode_host :
    decode (.event (.host { HostCmd.bare 0x0 with value := 7 })) = .ok .nop ∧
      decode (.event (.host { HostCmd.bare 0x1 with cmd := [0xD4], vkind := 1, pattern := [0xD5, 0x33] })) =
        .ok (.exec [0xD4] (.exact [0xD5, 0x33])) ∧
      decode (.event (.host { HostCmd.bare 0x2 with count := 3, vkind := 2, pred := .user 5, value := 25 })) =
        .ok (.hostEnq 3 (.pred (.user 5)) 25) ∧
      decode (.event (.host { HostCmd.bare 0x3 with value := 30 })) = .ok (.cfgw 30) ∧
      decode (.event (.host (HostCmd.bare 0xF))) = .ok .reset := by decide
/-- R106, R107: validator kind 3 is reserved. -/
theorem test_decode_host_reserved_kind :
    decode (.event (.host { HostCmd.bare 0x1 with vkind := 3 })) = .ok (.exec [] .reserved) := by decide
/-- R107: `0x4` to `0xE`. -/
theorem test_decode_reserved :
    [0x4, 0x5, 0x6, 0x7, 0x8, 0x9, 0xA, 0xB, 0xC, 0xD, 0xE].map (fun c => decode (.event (.host (HostCmd.bare c)))) =
      [.ok .reserved4, .ok .reserved5, .ok .reserved6, .ok .reserved7, .ok .reserved8, .ok .reserved9, .ok .reservedA,
        .ok .reservedB, .ok .reservedC, .ok .reservedD, .ok .reservedE] := by decide
/-- R154, R200: a chunk that is no frame, and the tick. -/
theorem test_decode_events : decode (.event (.rx [0x00, 0xFF])) = .ok (.rxb [0x00, 0xFF]) ∧ decode (.event .tick) = .ok .tick := by
  decide
/-- R110, D30: the table's words, the first byte on the wire the most significant. -/
theorem test_decodeTableWord :
    decodeTableWord 48 0x0000FF00FF00 = some .frameAck ∧ decodeTableWord 40 0x0000FF02FE = some (.rxHdrNormal 0x02 0xFE) ∧
      decodeTableWord 16 0xF800 = some (.rxTrl 0xF8) ∧ decodeTableWord 8 0xF = some .reset ∧
      decodeTableWord 24 0x0000FF = some (.frameNormal .toHost []) := by decide
/-- Every code of an instruction decodes to it again: one of each kind of code. -/
theorem test_decode_encode :
    (encode (.frameNormal .toReader [0xFF])).map decode = some (.ok (.frameNormal .toReader [0xFF])) ∧
      (encode (.hostEnq 2 (.exact [0x05]) 9)).map decode = some (.ok (.hostEnq 2 (.exact [0x05]) 9)) ∧
      (encode (.rxExt 0x01 0x00 0xFF)).map decode = some (.ok (.rxExt 0x01 0x00 0xFF)) ∧
      (encode .svc).map decode = none := by decide

/-! ### The codec: vectors 2.1 to 2.6 -/

theorem test_csum_command : rspOf (.csum [0xD4, 0x32, 0x02, 0x00, 0x00, 0x00]) .reset = some (.byte 0xF8) := by decide
theorem test_csum_wraps : rspOf (.csum [0x80, 0x80]) .reset = some (.byte 0x00) := by decide
theorem test_encn : rspOf (.encn [0x01, 0x02, 0x03]) .reset =
    some (.bytes [0x00, 0x00, 0xFF, 0x03, 0xFD, 0x01, 0x02, 0x03, 0xFA, 0x00]) := by decide
theorem test_encx_511 : (encx (List.replicate 511 0x00)).take 8 = [0x00, 0x00, 0xFF, 0xFF, 0xFF, 0x01, 0xFF, 0x00] := by
  simp only [encx, List.length_replicate]; rfl
theorem test_enc_threshold :
    (enc (List.replicate 255 0xAA)).take 5 = [0x00, 0x00, 0xFF, 0xFF, 0x01] ∧
      (enc (List.replicate 256 0xAA)).take 8 = [0x00, 0x00, 0xFF, 0xFF, 0xFF, 0x01, 0x00, 0xFF] := by
  simp only [enc, encn, encx, List.length_replicate]; exact ⟨rfl, rfl⟩
theorem test_isack :
    rspOf (.isack [0x00, 0x00, 0xFF, 0x00, 0xFF, 0x00]) .reset = some (.verdict true) ∧
      rspOf (.isack [0x00, 0x00, 0xFF, 0x00, 0xFF, 0x00, 0x00]) .reset = some (.verdict false) := by decide
theorem test_dech_normal :
    rspOf (.dech [0x00, 0x00, 0xFF, 0xFF, 0x00]) .reset =
      some (.header { preOk := true, extended := false, lcsOk := false, declaredLen := some 255 }) := by decide
theorem test_dech_marker :
    rspOf (.dech [0xFF, 0xFF, 0xFF, 0xFF, 0xFF]) .reset =
      some (.header { preOk := false, extended := true, lcsOk := true, declaredLen := none }) := by decide
theorem test_decx : rspOf (.decx [0x01, 0x09, 0xF6]) .reset = some (.extLen { lcsOk := true, len := 265 }) := by decide
theorem test_chkt :
    rspOf (.chkt [0xD5, 0x33] [0xF8, 0x00]) .reset = some (.verdict true) ∧
      rspOf (.chkt [0xD5, 0x33] [0xF8, 0x01]) .reset = some (.verdict false) := by decide
theorem test_decf_ok : rspOf (.decf reply) .reset = some (.decoded (.ok [0xD5, 0x33])) := by decide
theorem test_decf_errors :
    decf [0x00, 0x00, 0xFF, 0x02] = .err .short ∧
      decf [0x00, 0x01, 0xFF, 0x02, 0xFE, 0xD5, 0x33, 0xF8, 0x00] = .err .badPreamble ∧
      decf [0x00, 0x00, 0xFF, 0x00, 0xFF, 0x00] = .err .lcs ∧
      decf [0x00, 0x00, 0xFF, 0xFF, 0xFF, 0x01, 0x0A, 0xF5] = .err .tooLong ∧
      decf [0x00, 0x00, 0xFF, 0x02, 0xFE, 0xD5, 0x33, 0xF9, 0x00] = .err .dcs ∧
      decf (reply ++ [0x00]) = .err .trailing := by decide

/-! ### The host port -/

/-- R233. -/
theorem test_nop : after .nop (at50 .wBody) = some { at50 .wBody with rsp := .accepted } := by decide
/-- R182's example. -/
theorem test_exec :
    (after (.exec [0xD4, 0x32, 0x02, 0x00, 0x00, 0x00] (.exact [0xD5, 0x33])) .reset).map (fun t => (t.out, t.q, t.st)) =
      some
        (.flush :: [0x00, 0x00, 0xFF, 0x06, 0xFA, 0xD4, 0x32, 0x02, 0x00, 0x00, 0x00, 0xF8, 0x00].map OutItem.tx,
          [{ need := 6, acc := [], v := .exact [0x00, 0x00, 0xFF, 0x00, 0xFF, 0x00], deadline := 1000, cid := .seq }],
          .wAck) := by decide
/-- R236: refused in a transaction, and nothing but the answer changes. -/
theorem test_exec_active : after (.exec [] .none) (at50 .cancelWait) = some { at50 .cancelWait with rsp := .refused .active } := by
  decide
/-- R152's example. -/
theorem test_hostEnq :
    (after (.hostEnq 4 .none 1000) .reset).map (fun t => (t.rsp, t.tkt, t.q)) =
      some (.ticket 0, 1, [rawEntry 4 .none 1000 0]) := by decide
/-- Vector 2.8: the fifth `ENQ` is refused. -/
theorem test_hostEnq_full :
    rspOf (.hostEnq 1 .none 0) { State.reset with q := List.replicate 4 (rawEntry 1 .none 9 0) } = some (.refused .qFull) := by
  decide
/-- R232. -/
theorem test_cfgw : (after (.cfgw 30) (at50 .wAck)).map (fun t => (t.timeoutMs, t.st)) = some (30, .wAck) := by decide
/-- R230's example. -/
theorem test_reset :
    (after .reset { at50 .wBody with timeoutMs := 30, q := [rawEntry 1 .none 9 0, rawEntry 1 .none 9 1] }).map
      (fun t => (t.st, t.q, t.timeoutMs, t.now)) = some (.idle, [], 1000, 0) := by decide
/-- R237. -/
theorem test_reserved :
    rspOf .reserved4 .reset = some (.refused .badOp) ∧ rspOf .reserved5 .reset = some (.refused .badOp) ∧
      rspOf .reserved6 .reset = some (.refused .badOp) ∧ rspOf .reserved7 .reset = some (.refused .badOp) ∧
      rspOf .reserved8 .reset = some (.refused .badOp) ∧ rspOf .reserved9 .reset = some (.refused .badOp) ∧
      rspOf .reservedA .reset = some (.refused .badOp) ∧ rspOf .reservedB .reset = some (.refused .badOp) ∧
      rspOf .reservedC .reset = some (.refused .badOp) ∧ rspOf .reservedD .reset = some (.refused .badOp) ∧
      rspOf .reservedE .reset = some (.refused .badOp) := by decide
/-- R234: what the host reads while `RES.VALID` is 0. -/
theorem test_hostView_invalid : (hostView State.reset).valid = false ∧ (hostView State.reset).qEmpty = true := by decide

/-! ### Events, frames and the queue -/

/-- R154's example. -/
theorem test_rxb : (after (.rxb [0x00, 0xFF]) { State.reset with acc := [0x00] }).map (·.acc) = some [0x00, 0x00, 0xFF] := by decide
/-- R162. -/
theorem test_rxb_overflow :
    (after (.rxb [0x01, 0x02, 0x03]) { State.reset with acc := [0x00], cfg := { Config.vectors with accCap := some 3 } }).map
      (fun t => (t.acc, t.accOvf)) = some ([0x00, 0x01, 0x02], true) := by decide
/-- R92, R74: toward the reader. -/
theorem test_frameNormal :
    (after (.frameNormal .toReader [0xD5, 0x33]) .reset).map (·.out) = some (reply.map OutItem.tx) := by decide
/-- R93. -/
theorem test_frameExtended :
    (after (.frameExtended .toHost [0xD5, 0x33]) .reset).map (·.acc) =
      some [0x00, 0x00, 0xFF, 0xFF, 0xFF, 0x00, 0x02, 0xFE, 0xD5, 0x33, 0xF8, 0x00] := by decide
/-- R94, R95. -/
theorem test_frameAck_frameCancel :
    (after .frameAck .reset).map (·.acc) = some [0x00, 0x00, 0xFF, 0x00, 0xFF, 0x00] ∧
      (after .frameCancel .reset).map (·.out) = some ([0x00, 0x00, 0xFF, 0x00, 0xFF, 0x00].map OutItem.tx) := by decide
/-- R155's example. -/
theorem test_svc :
    (after .svc { State.reset with
        acc := [0x00, 0x00, 0xFF, 0x00, 0xFF, 0x00, 0x00, 0x00]
        q := [{ need := 6, acc := [], v := vAck, deadline := 1000, cid := .seq }] }).map (fun t => (t.rsp, t.acc, t.q)) =
      some (.completion (some { cid := .seq, status := .ok, bytes := [0x00, 0x00, 0xFF, 0x00, 0xFF, 0x00] }), [0x00, 0x00], []) := by
  decide
/-- Vector 2.8: the deadline after the bytes (R155, R281). -/
theorem test_svc_deadline :
    (after .svc { State.reset with now := 20, acc := [0x07], q := [rawEntry 1 .none 20 0] }).map (·.rsp) =
        some (.completion (some { cid := .raw 0, status := .ok, bytes := [0x07] })) ∧
      (after .svc { State.reset with now := 20, q := [rawEntry 1 .none 20 0] }).map (·.rsp) =
        some (.completion (some { cid := .raw 0, status := .timeout, bytes := [] })) := by decide
/-- Vector 2.7. -/
theorem test_val :
    rspOf (.val (.exact [0xD5, 0x33]) [0xD5, 0x33, 0x00]) .reset = some (.verdict false) ∧
      rspOf (.val vPfx [0x00, 0x00, 0xFF, 0x02, 0xFE]) .reset = some (.verdict true) ∧
      rspOf (.val .none []) .reset = some (.verdict true) := by decide
/-- R251's `f`: `D5 A1 00` first, and `len(body) = body[3] + 3`. -/
def cardReply : Pred := .both (.slice 0 [0xD5, 0xA1, 0x00]) (.lengthByte 3 3)
/-- R253's `g`: one of two prefixes. -/
def pollReply : Pred := .either (.slice 0 [0xD5, 0x4B, 0x01, 0x01, 0x12, 0x01]) (.slice 0 [0xD5, 0x4B, 0x00])
/-- R251 on R254's reply body, on the same with one byte more, and on a body shorter than four bytes. -/
theorem test_val_pred_card :
    rspOf (.val (.pred cardReply)
        [0xD5, 0xA1, 0x00, 0x0D, 0x03, 0x01, 0x02, 0x03, 0x04, 0x05, 0x06, 0x07, 0x08, 0x01, 0x00, 0x00]) .reset =
        some (.verdict true) ∧
      rspOf (.val (.pred cardReply)
        [0xD5, 0xA1, 0x00, 0x0D, 0x03, 0x01, 0x02, 0x03, 0x04, 0x05, 0x06, 0x07, 0x08, 0x01, 0x00, 0x00, 0x00]) .reset =
        some (.verdict false) ∧
      rspOf (.val (.pred cardReply) [0xD5, 0xA1, 0x00]) .reset = some (.verdict false) := by decide
/-- R253: "each slice compared only if the body is long enough". -/
theorem test_val_pred_poll :
    rspOf (.val (.pred pollReply) [0xD5, 0x4B, 0x00]) .reset = some (.verdict true) ∧
      rspOf (.val (.pred pollReply) [0xD5, 0x4B, 0x01, 0x01, 0x12, 0x01, 0xAA]) .reset = some (.verdict true) ∧
      rspOf (.val (.pred pollReply) [0xD5, 0x4B]) .reset = some (.verdict false) := by decide
/-- R156's example. -/
theorem test_aclr : (after .aclr { State.reset with acc := [0xAA], accOvf := true }).map (fun t => (t.acc, t.accOvf)) = some ([], true) := by
  decide
/-- R153's example. -/
theorem test_enq :
    (after (.enq 6 vAck 1000 .seq) .reset).map (·.q) =
      some [{ need := 6, acc := [], v := .exact [0x00, 0x00, 0xFF, 0x00, 0xFF, 0x00], deadline := 1000, cid := .seq }] := by decide
/-- Vector 2.8, third line: a tick that leaves a partial head. -/
theorem test_tick_partial :
    (after .tick { State.reset with acc := [0x01], q := [rawEntry 3 .none 25 0] }).map (fun t => (t.now, t.acc, t.q)) =
      some (10, [], [{ need := 2, acc := [0x01], v := .none, deadline := 25, cid := .raw 0 }]) := by decide
/-- Vector 2.8: validator failure consumes the bytes. -/
theorem test_tick_rawdone :
    (after .tick { State.reset with acc := [0x05, 0x07, 0x08], q := [rawEntry 2 (.exact [0x05, 0x06]) 1000 0] }).map
      (fun t => (t.evt, t.acc, t.q)) = some ([.rawdone 0 .checkFailed []], [0x08], []) := by decide

/-! ### The reactions: vectors 2.9 -/

theorem test_sAck :
    (after (.sAck .ok [0x00, 0x00, 0xFF, 0x00, 0xFF, 0x00]) (at50 .wAck)).map (fun t => (t.q, t.st)) =
      some ([{ need := 5, acc := [], v := .pred (.slice 0 [0x00, 0x00, 0xFF]), deadline := 1050, cid := .seq }], .wHdr) := by decide
theorem test_sAck_failed :
    (after (.sAck .checkFailed []) (at50 .wAck)).map cancelOf = some (.noAck, .checkFailed, .wAck, 70, .cancelWait) := by decide
theorem test_sHdr :
    (after (.sHdr .ok [0x00, 0x00, 0xFF, 0xFF, 0x01]) (at50 .wHdr)).map (fun t => (t.rlen, t.extf, t.st, t.q.map (·.need))) =
      some (255, false, .wBody, [255]) := by decide
theorem test_sHdr_second_ack :
    (after (.sHdr .ok [0x00, 0x00, 0xFF, 0x00, 0xFF]) (at50 .wHdr)).map cancelOf =
      some (.responseChecksumError, .ok, .wHdr, 70, .cancelWait) := by decide
theorem test_sExt :
    (after (.sExt .ok [0x01, 0x00, 0xFF]) (at50 .wExt)).map (fun t => (t.rlen, t.st, t.q.map (·.need))) =
      some (256, .wBody, [256]) := by decide
theorem test_sExt_too_long :
    (after (.sExt .ok [0x01, 0x0A, 0xF5]) (at50 .wExt)).map (fun t => (t.rlen, cancelOf t)) =
      some (266, .responseTooLong, .ok, .wExt, 70, .cancelWait) := by decide
theorem test_sBody :
    (after (.sBody .ok [0xD5, 0x33]) (at50 .wBody)).map (fun t => (t.body, t.bdcs, t.st, t.q.map (·.need))) =
      some ([0xD5, 0x33], 0xF8, .wTrl, [2]) := by decide
theorem test_sBody_timeout :
    (after (.sBody .timeout []) (at50 .wBody)).map cancelOf = some (.timeout, .timeout, .wBody, 70, .cancelWait) := by decide
/-- R188's example. -/
theorem test_sTrl :
    (after (.sTrl .ok [0xF8, 0x00]) { at50 .wTrl with body := [0xD5, 0x33], bdcs := 0xF8, cv := .exact [0xD5, 0x33] }).map
      (fun t => (t.res.ok, t.res.blen, t.res.body, t.st)) = some (true, 2, [0xD5, 0x33], .idle) := by decide
theorem test_sTrl_check_failed :
    (after (.sTrl .ok [0xF8, 0x00]) { at50 .wTrl with body := [0xD5, 0x33], bdcs := 0xF8, cv := .exact [0xD5, 0x4B, 0x00] }).map
      cancelOf = some (.checkFailed, .ok, .wTrl, 70, .cancelWait) := by decide
/-- R198's example. -/
theorem test_finishOk :
    (after .finishOk { at50 .wTrl with body := [0xD5, 0x33] }).map (·.evt) =
      some [.done { valid := true, ok := true, tag := .ok, cause := .ok, stage := .idle, blen := 2, body := [0xD5, 0x33] }] := by
  decide
/-- R196's example. -/
theorem test_cancelBegin :
    (after (.cancelBegin .timeout .timeout) { State.reset with now := 30, st := .wTrl }).map (fun t => (t.cdl, t.out)) =
      some (50, [0x00, 0x00, 0xFF, 0x00, 0xFF, 0x00].map OutItem.tx) := by decide
/-- R197. -/
theorem test_cancelFinish :
    (after .cancelFinish { State.reset with now := 50, cdl := 50, st := .cancelWait, ftag := .noAck, fcause := .timeout, fstage := .wAck, acc := [0xAA] }).map
      (fun t => (t.out, t.acc, t.res.valid, t.res.tag, t.res.stage, t.st)) =
      some ([.flush], [], true, .noAck, .wAck, .idle) := by decide
/-- R197: not before `CDL`. -/
theorem test_cancelFinish_early :
    (after .cancelFinish { State.reset with now := 40, cdl := 50, st := .cancelWait }).map (·.st) = some .cancelWait := by decide
theorem test_rxAck : (after .rxAck (at50 .wAck)).map (·.st) = some .wHdr := by decide
theorem test_rxHdrExt : (after .rxHdrExt (at50 .wHdr)).map (fun t => (t.extf, t.st, t.q.map (·.need))) = some (true, .wExt, [3]) := by
  decide
theorem test_rxHdrNormal : (after (.rxHdrNormal 0x02 0xFE) (at50 .wHdr)).map (fun t => (t.rlen, t.st)) = some (2, .wBody) := by decide
theorem test_rxHdrBad :
    (after (.rxHdrBad 0x00 0xFF 0x02 0xFE 0xD5) (at50 .wHdr)).map (fun t => (t.hdr, cancelOf t)) =
      some ([], .noValidMessage, .checkFailed, .wHdr, 70, .cancelWait) := by decide
theorem test_rxExt : (after (.rxExt 0x01 0x09 0xF6) (at50 .wExt)).map (fun t => (t.extb, t.rlen)) = some ([0x01, 0x09, 0xF6], 265) := by
  decide
theorem test_rxBody : (after (.rxBody [0xD5, 0x33]) { at50 .wBody with rlen := 2 }).map (fun t => (t.bdcs, t.st)) = some (0xF8, .wTrl) := by
  decide
theorem test_rxTrl :
    (after (.rxTrl 0xF9) { at50 .wTrl with body := [0xD5, 0x33], bdcs := 0xF8 }).map cancelOf =
      some (.responseChecksumError, .ok, .wTrl, 70, .cancelWait) := by decide

/-! ### Steps -/

/-- R298: `FLUSH` discards what the reader has sent and the transport has not delivered. -/
theorem test_flush_discards : (after (.exec [] .none) { State.reset with tpend := [0x01] }).map (·.tpend) = some [] := by decide
/-- R7, R21: with a `W_TIME` of 4 bits, 15 is the last time that is held exactly. -/
theorem test_tick_wTime :
    (after .tick { State.reset with now := 5, cfg := { Config.vectors with wTime := some 4 } }).map (·.now) = some 15 := by decide
/-- R298: a delivery takes what waits first. -/
theorem test_step_deliver :
    (match step { State.reset with inq := [.deliver 2], tpend := [0x01, 0x02, 0x03] } with
      | .next t => some (t.acc, t.tpend, t.inq)
      | _ => none) = some ([0x01, 0x02], [0x03], []) := by decide
/-- The placed word of a trailer is run by the next step (log 14). -/
theorem test_withFetchWord_trailer :
    (match step ({ State.reset with cv := .none }.withFetchWord 16 0x0000) with
      | .next t => some (t.st, t.res.ok)
      | _ => none) = some (.idle, true) := by decide

/-! ### Witnesses: for each statement with hypotheses, a state and operands that meet them, clause by clause at a boundary -/

/-- `W_TRL` with a good trailer in `ACC` and a tick waiting. -/
def closing : State :=
  { before .wTrl 2 .none 1030 [0xF8, 0x00] with
    cmd := [0xD4], cv := .exact [0xD5, 0x33], hdr := [0x00, 0x00, 0xFF, 0x02, 0xFE], rlen := 2, body := [0xD5, 0x33], bdcs := 0xF8
    out := [.flush] }

/-- `CANCEL_WAIT` with the wait over at the tick that waits. -/
def giving : State :=
  { State.reset with
    now := 40, st := .cancelWait, ftag := .noAck, fcause := .timeout, fstage := .wAck, cdl := 50, out := [.flush], inq := [.tick] }

theorem inv_closing : Inv closing where
  legal := by decide
  queueBound := by decide
  behindHead := by decide
  seqRead := by decide
  resultIdle := by decide
  idleResult := by decide
  lengthBound := by decide
  wholeTicks := by decide
  timeWidth := ⟨nofun, nofun, fun _ _ => nofun⟩
  accBound := by intro cap h; cases h
  unboundedNoFault := by decide
  cmdBound := by decide
  hdrLength := by decide
  extbLength := by decide
  markerCaptured := by decide
  lengthCaptured := fun _ => .inl ⟨0x02, 0xFE, rfl, rfl, by decide, by decide, by decide⟩
  bodyBound := by decide
  bodyCaptured := by decide
  heldFailure := by decide
  result := by unfold resultOk; decide

theorem inv_giving : Inv giving where
  legal := by decide
  queueBound := by decide
  behindHead := by decide
  seqRead := by decide
  resultIdle := by decide
  idleResult := by decide
  lengthBound := by decide
  wholeTicks := by decide
  timeWidth := ⟨nofun, nofun, fun _ _ => nofun⟩
  accBound := by intro cap h; cases h
  unboundedNoFault := by decide
  cmdBound := by decide
  hdrLength := by decide
  extbLength := by decide
  markerCaptured := by decide
  lengthCaptured := nofun
  bodyBound := by decide
  bodyCaptured := by decide
  heldFailure := by decide
  result := by unfold resultOk; decide

theorem witness_EncodersBuildTheFrame :
    (List.replicate 255 (0xAA : Byte)).length ≤ 255 ∧ 256 ≤ (List.replicate 256 (0xAA : Byte)).length ∧
      (List.replicate 65535 (0xAA : Byte)).length ≤ 65535 := by
  simp only [List.length_replicate]; decide

/-- Each clause at the edge of its range: 4 bytes; a preamble one bit off; the marker with two length bytes; a wrong and a right
length checksum, of 265 and of 266 bytes; a wrong LCS beside the marker, and a right one of 255 and of 0 bytes. -/
theorem witness_DecfTestsInOrder :
    [(0x00 : Byte), 0x00, 0xFF, 0x02].length < 5 ∧ [(0x00 : Byte), 0x01, 0xFF] ≠ [0x00, 0x00, 0xFF] ∧
      [(0x01 : Byte), 0x09].length < 3 ∧
      ((0x01 : Byte).toNat + (0x09 : Byte).toNat + (0xF5 : Byte).toNat) % 256 ≠ 0 ∧
      ((0x01 : Byte).toNat + (0x09 : Byte).toNat + (0xF6 : Byte).toNat) % 256 = 0 ∧
      ((0x01 : Byte).toNat + (0x0A : Byte).toNat + (0xF5 : Byte).toNat) % 256 = 0 ∧
      (¬ ((0xFF : Byte) = 0xFF ∧ (0x00 : Byte) = 0xFF) ∧ ((0xFF : Byte).toNat + (0x00 : Byte).toNat) % 256 ≠ 0) ∧
      (¬ ((0xFF : Byte) = 0xFF ∧ (0x01 : Byte) = 0xFF) ∧ ((0xFF : Byte).toNat + (0x01 : Byte).toNat) % 256 = 0) ∧
      ¬ ((0x00 : Byte) = 0xFF ∧ (0x00 : Byte) = 0xFF) ∧ ((0x00 : Byte).toNat + (0x00 : Byte).toNat) % 256 = 0 := by decide

theorem witness_EveryPredicateIsHeld :
    (List.replicate 265 (0x00 : Byte)).length ≤ 265 ∧ (List.replicate 65535 (0x00 : Byte)).length ≤ 65535 := by
  simp only [List.length_replicate]; decide

theorem witness_CodecProperties :
    (List.replicate 255 (0xAA : Byte)).length ≤ 255 ∧
      (256 ≤ (List.replicate 256 (0xAA : Byte)).length ∧ (List.replicate 256 (0xAA : Byte)).length ≤ 265) ∧
      (256 ≤ (List.replicate 265 (0xAA : Byte)).length ∧ (List.replicate 265 (0xAA : Byte)).length ≤ 265) ∧
      (265 < (List.replicate 266 (0xAA : Byte)).length ∧ (List.replicate 266 (0xAA : Byte)).length ≤ 65535) := by
  simp only [List.length_replicate]; decide

theorem witness_OutsideTheCodecDomain :
    [(0x00 : Byte), 0x00, 0xFF, 0x02].length ≠ 5 ∧ [(0x00 : Byte), 0x02].length ≠ 3 ∧
      255 < (List.replicate 256 (0x00 : Byte)).length ∧ 65535 < (List.replicate 65536 (0x00 : Byte)).length := by
  simp only [List.length_replicate]; decide

theorem witness_DecodeOfEncode : ∃ (i : Instr) (c : Code), i.wf = true ∧ encode i = some c ∧ ∀ b, i ≠ .rxb b :=
  ⟨.rxHdrNormal 0xFF 0x01, _, by decide, rfl, nofun⟩

theorem witness_StepRunsTheDecodedInstruction :
    ∃ (s : State) (e : Event) (rest : List Event) (i : Instr), s.inq = e :: rest ∧ decode (.event e) = .ok i :=
  ⟨{ State.reset with inq := [.rx reply, .tick] }, .rx reply, [.tick], .frameNormal .toHost [0xD5, 0x33], rfl, by decide⟩

/-- The hypotheses of `PieceRowsAreWhatATickRuns`, for one stage. -/
def pieceHyps (s : State) (e : Entry) (rest : List Entry) (i : Instr) : Prop :=
  s.q = e :: rest ∧ e.cid = .seq ∧ e.acc = [] ∧ e.need ≤ s.acc.length ∧ stageReads s.st s.rlen = [(e.need, e.v)] ∧
    decodePiece s.st s.rlen (s.acc.take e.need) = .ok i

theorem witness_PieceRowsAreWhatATickRuns :
    (∃ e i, pieceHyps (before .wAck 6 vAck 50 [0x00, 0x00, 0xFF, 0x00, 0xFF, 0x00, 0x00]) e [] i) ∧
      (∃ e i, pieceHyps (before .wHdr 5 vPfx 50 [0x00, 0x00, 0xFF, 0xFF, 0xFF]) e [] i) ∧
      (∃ e i, pieceHyps (before .wHdr 5 vPfx 50 [0x00, 0x00, 0x00, 0x02, 0xFE]) e [] i) ∧
      (∃ e i, pieceHyps (before .wExt 3 .none 50 [0x01, 0x0A, 0xF5]) e [] i) ∧
      (∃ e i, pieceHyps (before .wBody 0 .none 50 []) e [] i) ∧
      ∃ e i, pieceHyps (before .wTrl 2 .none 50 [0xF8, 0x00]) e [] i := by
  refine ⟨⟨_, .rxAck, rfl, ?_⟩, ⟨_, .rxHdrExt, rfl, ?_⟩, ⟨_, .rxHdrBad 0x00 0x00 0x00 0x02 0xFE, rfl, ?_⟩,
    ⟨_, .rxExt 0x01 0x0A 0xF5, rfl, ?_⟩, ⟨_, .rxBody [], rfl, ?_⟩, ⟨_, .rxTrl 0xF8, rfl, ?_⟩⟩ <;> decide

theorem witness_TableHostCodeRunsNext : (0 : Nat) < 16 ∧ (15 : Nat) < 16 := by decide

theorem loadable_pattern : Loadable 265 (.exact [0xD5, 0x33]) := ⟨nofun, by rintro p ⟨⟩; decide⟩
theorem loadable_none (cap : Nat) : Loadable cap .none := ⟨nofun, nofun⟩
theorem not_loadable_reserved (cap : Nat) : ¬ Loadable cap .reserved := fun h => h.1 rfl
theorem not_loadable_long : ¬ Loadable 265 (.exact (List.replicate 266 0x00)) := fun h =>
  absurd (h.2 _ rfl) (by simp only [List.length_replicate]; decide)

theorem witness_ExecStartsATransaction :
    ∃ (cmd : Bytes) (va : VArg) (v : Validator) (s : State), Loadable 265 va ∧ Stands va v ∧ s.st = .idle ∧
      cmd.length ≤ s.cfg.cmdCap ∧ s.q.length < s.cfg.qDepth :=
  ⟨[0xD4], .exact [0xD5, 0x33], .exact [0xD5, 0x33], { State.reset with cfg := { Config.vectors with cmdCap := 1, qDepth := 1 } },
    loadable_pattern, .inr (.inl ⟨_, rfl, rfl⟩), rfl, by decide, by decide⟩

theorem witness_EnqGivesATicket :
    ∃ (va : VArg) (v : Validator) (s : State), Loadable s.cfg.rawPatCap va ∧ Stands va v ∧ s.q.length < s.cfg.qDepth :=
  ⟨.pred (.user 3), .pred (.user 3), { State.reset with q := List.replicate 3 (rawEntry 1 .none 9 0) }, ⟨nofun, nofun⟩,
    .inr (.inr ⟨_, rfl, rfl⟩), by decide⟩

theorem witness_ReservedCodesAreRefused :
    (4 ≤ (HostCmd.bare 0x4).op.toNat ∧ (HostCmd.bare 0xE).op.toNat ≤ 14) ∧
      (HostCmd.bare 0x1).op = 0x1 ∧ { HostCmd.bare 0x2 with vkind := 3 }.vkind = 3 := by decide

theorem witness_RefusalsInOrder :
    (¬ Loadable 265 .reserved ∧ ¬ Loadable 265 (.exact (List.replicate 266 0x00))) ∧
      (Loadable 265 .none ∧ (at50 .cancelWait).st ≠ .idle) ∧
      (∃ s : State, s.st = .idle ∧ s.cfg.cmdCap < [(0x01 : Byte), 0x02].length) ∧
      ∃ s : State, s.st = .idle ∧ [(0x01 : Byte)].length ≤ s.cfg.cmdCap ∧ s.q.length = s.cfg.qDepth :=
  ⟨⟨not_loadable_reserved _, not_loadable_long⟩, ⟨loadable_none _, by decide⟩,
    ⟨{ State.reset with cfg := { Config.vectors with cmdCap := 1 } }, rfl, by decide⟩,
    ⟨{ State.reset with q := List.replicate 4 (rawEntry 1 .none 9 0) }, rfl, by decide, by decide⟩⟩

theorem witness_HostReadsOfTheResult :
    State.reset.res.valid = false ∧ { State.reset with res := failedRes giving }.res.valid = true ∧ { giving with now := 50 }.st = .cancelWait ∧ { giving with now := 50 }.cdl ≤ { giving with now := 50 }.now := by
  decide

theorem witness_ChunkIsAppended :
    (∃ (c : Bytes) (s : State) (cap : Nat), s.cfg.accCap = some cap ∧ s.acc.length + c.length ≤ cap ∧ c ≠ []) ∧
      ∃ (c : Bytes) (s : State) (cap : Nat), s.cfg.accCap = some cap ∧ s.acc.length ≤ cap ∧ cap < s.acc.length + c.length :=
  ⟨⟨[0x01, 0x02], { State.reset with acc := [0x00], cfg := { Config.vectors with accCap := some 3 } }, 3, rfl, by decide, by decide⟩,
    ⟨[0x01, 0x02], { State.reset with acc := [0x00, 0x00], cfg := { Config.vectors with accCap := some 3 } }, 3, rfl, by decide, by decide⟩⟩

theorem witness_FramesTowardTheReader :
    (List.replicate 255 (0x00 : Byte)).length ≤ 255 ∧ (List.replicate 65535 (0x00 : Byte)).length ≤ 65535 := by
  simp only [List.length_replicate]; decide

theorem witness_FramesFromTheReader :
    State.reset.cfg.accCap = none ∧ (List.replicate 255 (0x00 : Byte)).length ≤ 255 ∧
      (List.replicate 65535 (0x00 : Byte)).length ≤ 65535 := by
  simp only [List.length_replicate]; decide

theorem witness_EnvironmentSteps :
    (∃ s : State, s.inq = [.reader [0x01]]) ∧
      (∃ s : State, s.inq = [.deliver 2] ∧ 0 < 2 ∧ 2 ≤ s.tpend.length) ∧ State.reset.inq = [] :=
  ⟨⟨{ State.reset with inq := [.reader [0x01]] }, rfl⟩,
    ⟨{ State.reset with inq := [.deliver 2], tpend := [0x01, 0x02] }, rfl, by decide, by decide⟩, rfl⟩

theorem witness_ServiceOfTheHead :
    State.reset.q = [] ∧
      (∃ (s : State) (e : Entry), s.q = [e] ∧ e.need ≤ s.acc.length ∧ evalValidator e.v (e.acc ++ s.acc.take e.need) = true) ∧
      (∃ (s : State) (e : Entry), s.q = [e] ∧ e.need ≤ s.acc.length ∧ evalValidator e.v (e.acc ++ s.acc.take e.need) = false) ∧
      (∃ (s : State) (e : Entry), s.q = [e] ∧ s.acc.length < e.need ∧ e.deadline ≤ s.now) ∧
      ∃ (s : State) (e : Entry), s.q = [e] ∧ s.acc.length < e.need ∧ s.now < e.deadline :=
  ⟨rfl, ⟨before .wAck 6 vAck 40 ackFrame, _, rfl, by decide, by decide⟩,
    ⟨before .wHdr 5 vPfx 40 [0x00, 0x00, 0x00, 0x02, 0xFE], _, rfl, by decide, by decide⟩,
    ⟨before .wExt 3 .none 40 [0x01, 0x00], _, rfl, by decide, by decide⟩,
    ⟨before .wExt 3 .none 41 [0x01, 0x00], _, rfl, by decide, by decide⟩⟩

theorem witness_ServiceConservesBytes : ∃ (s : State) (e : Entry) (rest : List Entry), s.q = e :: rest :=
  ⟨before .wExt 3 .none 41 [0x01, 0x00], _, _, rfl⟩

theorem witness_EnqueueAtTheEnd : ∃ s : State, s.q.length < s.cfg.qDepth ∧ s.q ≠ [] :=
  ⟨{ State.reset with q := List.replicate 3 (rawEntry 1 .none 9 0) }, by decide, by decide⟩

theorem witness_AckReaction : (at50 .wAck).st = .wAck := rfl

theorem witness_HeaderReaction :
    (at50 .wHdr).st = .wHdr ∧ (∃ len lcs : Byte, ¬ (len = 0xFF ∧ lcs = 0xFF) ∧ (len.toNat + lcs.toNat) % 256 = 0) ∧
      ∃ len lcs : Byte, ¬ (len = 0xFF ∧ lcs = 0xFF) ∧ (len.toNat + lcs.toNat) % 256 ≠ 0 :=
  ⟨rfl, ⟨0xFF, 0x01, by decide, by decide⟩, ⟨0xFF, 0x00, by decide, by decide⟩⟩

theorem witness_ExtendedLengthReaction : (at50 .wExt).st = .wExt ∧ Status.timeout ≠ .ok ∧ Status.checkFailed ≠ .ok := by decide

theorem witness_BodyReaction : (at50 .wBody).st = .wBody ∧ Status.timeout ≠ .ok ∧ Status.checkFailed ≠ .ok := by decide

theorem witness_ReceiveRowsAreTheirReactions :
    (at50 .wAck).st = .wAck ∧ (at50 .wHdr).st = .wHdr ∧ [(0x00 : Byte), 0x00, 0xFE] ≠ [0x00, 0x00, 0xFF] ∧ (at50 .wExt).st = .wExt ∧
      ({ at50 .wBody with rlen := 2 }.st = .wBody ∧ [(0xD5 : Byte), 0x33].length = { at50 .wBody with rlen := 2 }.rlen.toNat) ∧
      ((at50 .wBody).st = .wBody ∧ ([] : Bytes).length = (at50 .wBody).rlen.toNat) ∧ (at50 .wTrl).st = .wTrl := by decide

theorem witness_TrailerReaction :
    (¬ ((0xF9 : Byte) = closing.bdcs ∧ (0x00 : Byte) = 0x00)) ∧ (¬ ((0xF8 : Byte) = closing.bdcs ∧ (0x01 : Byte) = 0x00)) ∧
      ((0xF8 : Byte) = closing.bdcs ∧ evalValidator closing.cv closing.body = true) ∧
      evalValidator { closing with cv := .exact [0xD5] }.cv closing.body = false ∧ closing.st = .wTrl := by decide

theorem witness_SuccessfulEnd : closing.st = .wTrl := rfl

theorem witness_CancelBegins :
    waiting (at50 .wAck).st = true ∧ waiting (at50 .wHdr).st = true ∧ waiting (at50 .wExt).st = true ∧
      waiting (at50 .wBody).st = true ∧ waiting (at50 .wTrl).st = true := by decide

theorem witness_CancelFinishes :
    { giving with now := 50 }.st = .cancelWait ∧ { giving with now := 50 }.cdl ≤ { giving with now := 50 }.now := by decide

theorem witness_NothingReactsOutOfStage :
    (at50 .idle).st ≠ .wAck ∧ (at50 .idle).st ≠ .wHdr ∧ (at50 .idle).st ≠ .wExt ∧ (at50 .idle).st ≠ .wBody ∧
      (at50 .idle).st ≠ .wTrl ∧ [(0x00 : Byte), 0x00, 0xFF, 0x02, 0xFE].length = 5 ∧ [(0x01 : Byte), 0x00, 0xFF].length = 3 ∧
      (Status.timeout = .ok → ([] : Bytes).length = 5) ∧ (Status.checkFailed = .ok → ([] : Bytes).length = 5) ∧
      (Status.timeout = .ok → ([] : Bytes).length = 3) ∧
      waiting (at50 .cancelWait).st = false ∧ giving.now < giving.cdl ∧
      Config.vectors.qDepth ≤ (List.replicate 4 (rawEntry 1 .none 9 0)).length := by decide

/-- What the tick's `SVC` returns. -/
def servedBy (s : State) : Option Completion := (service { s with now := timeValue s.cfg (s.now + s.cfg.tickMs) }).2

theorem witness_TickRunsOneService :
    servedBy (before .wExt 3 .none 51 []) = none ∧
      (servedBy giving = none ∧ giving.st = .cancelWait ∧ giving.cdl ≤ giving.now + giving.cfg.tickMs) ∧
      servedBy { giving with q := [rawEntry 0 .none 0 7], cdl := 51 } = some { cid := .raw 7, status := .ok, bytes := [] } ∧
      servedBy { giving with q := [rawEntry 0 .none 0 7] } = some { cid := .raw 7, status := .ok, bytes := [] } ∧
      servedBy (before .wAck 6 vAck 50 []) = some { cid := .seq, status := .timeout, bytes := [] } ∧
      servedBy (before .wHdr 5 vPfx 50 [0x00, 0x00, 0xFF, 0x02, 0xFE]) =
        some { cid := .seq, status := .ok, bytes := [0x00, 0x00, 0xFF, 0x02, 0xFE] } ∧
      servedBy (before .wExt 3 .none 50 [0x01, 0x09, 0xF6]) = some { cid := .seq, status := .ok, bytes := [0x01, 0x09, 0xF6] } ∧
      servedBy (before .wBody 0 .none 50 []) = some { cid := .seq, status := .ok, bytes := [] } ∧
      servedBy closing = some { cid := .seq, status := .ok, bytes := [0xF8, 0x00] } := by decide

/-- Times at the edge of a `W_TIME` of 4 bits, and a tick to the last of them. -/
theorem witness_TimesAreExactWhereTheyFit :
    Fits { Config.vectors with wTime := some 4 } 15 ∧ Config.vectors.wTime = none ∧
      { Config.vectors with wTime := some 4 }.wTime = some 4 ∧
      ∃ s t : State, step s = .next t ∧ s.inq = [.tick] ∧ s.now % s.cfg.tickMs = 0 ∧ Fits s.cfg (s.now + s.cfg.tickMs) ∧
        s.cfg.wTime = some 4 :=
  ⟨(by rintro w ⟨⟩; decide), rfl, rfl,
    { State.reset with now := 10, inq := [.tick], cfg := { Config.vectors with tickMs := 5, wTime := some 4 } }, _, rfl, rfl,
    rfl, (by rintro w ⟨⟩; decide), rfl⟩

theorem witness_ResetMeetsTheInvariants :
    Config.vectors.Legal ∧ { Config.vectors with tickMs := 1, qDepth := 1, accCap := some 281, rawPatCap := 65535 }.Legal := by decide

theorem witness_StepKeepsTheInvariants :
    (∃ t, Inv closing ∧ step closing = .next t ∧ t.st = .idle) ∧ ∃ t, Inv giving ∧ step giving = .next t ∧ t.res.valid = true :=
  ⟨⟨_, inv_closing, rfl, by decide⟩, ⟨_, inv_giving, rfl, rfl⟩⟩

/-- A step with each kind of event: the hypotheses of the whole-machine statements `ParametersNeverChange`,
`OnlyTicksAdvanceTime`, `OutputOrder`, `OnlyTheHeadIsTouched`, `CompletionsComeFromTicks`, `TimeoutIsWrittenByCfgwOnly`. -/
theorem witness_whole_machine_step :
    (∃ t, step closing = .next t ∧ closing.inq.head? = some .tick ∧ ¬ resetNext closing) ∧
      (∃ s t, step s = .next t ∧ resetNext s) ∧
      ∃ s t, step s = .next t ∧ (∃ h, s.inq.head? = some (.host h) ∧ h.op = 0x3) ∧ ¬ resetNext s := by
  refine ⟨⟨_, rfl, rfl, ?_⟩, ⟨{ closing with inq := [.host (HostCmd.bare 0xF)] }, _, rfl, _, rfl, rfl⟩,
    ⟨{ closing with inq := [.host { HostCmd.bare 0x3 with value := 30 }] }, _, rfl, ⟨_, rfl, rfl⟩, ?_⟩⟩
  · rintro ⟨h, hh, _⟩; cases hh
  · rintro ⟨h, hh, ho⟩; cases hh; exact absurd ho (by decide)

/-- The completions that the rows of R181 speak of, and the state each row starts from. -/
theorem witness_SequencerTransitions :
    (servedBy (before .wAck 6 vAck 1030 ackFrame)).map (·.status) = some .ok ∧
      (servedBy (before .wAck 6 vAck 50 [])).map (·.status) = some .timeout ∧
      (servedBy (before .wHdr 5 vPfx 50 [0x00, 0x00, 0xFE, 0x02, 0xFE])).map (·.status) = some .checkFailed ∧
      (servedBy (before .wHdr 5 vPfx 50 [0x00, 0x00, 0xFF, 0xFF, 0xFF])).map (·.bytes) = some [0x00, 0x00, 0xFF, 0xFF, 0xFF] ∧
      (servedBy (before .wHdr 5 vPfx 50 [0x00, 0x00, 0xFF, 0xFF, 0x01])).map (·.bytes) = some [0x00, 0x00, 0xFF, 0xFF, 0x01] ∧
      (servedBy (before .wHdr 5 vPfx 50 [0x00, 0x00, 0xFF, 0x00, 0xFF])).map (·.bytes) = some [0x00, 0x00, 0xFF, 0x00, 0xFF] ∧
      (servedBy (before .wExt 3 .none 50 [0x01])).map (·.status) = some .timeout ∧
      (servedBy (before .wExt 3 .none 50 [0x01, 0x00, 0xFE])).map (·.bytes) = some [0x01, 0x00, 0xFE] ∧
      (servedBy (before .wExt 3 .none 50 [0x01, 0x09, 0xF6])).map (·.bytes) = some [0x01, 0x09, 0xF6] ∧
      (servedBy (before .wExt 3 .none 50 [0x01, 0x0A, 0xF5])).map (·.bytes) = some [0x01, 0x0A, 0xF5] ∧
      (servedBy (before .wBody 2 .none 50 [0xD5])).map (·.status) = some .timeout ∧
      (servedBy closing).map (·.bytes) = some [closing.bdcs, 0x00] ∧
      (servedBy { closing with acc := [0xF9, 0x00] }).map (·.bytes) = some [0xF9, 0x00] ∧
      (servedBy { closing with acc := [], now := 1020 }).map (·.status) = some .timeout ∧
      evalValidator closing.cv closing.body = true ∧ evalValidator { closing with cv := .exact [] }.cv closing.body = false ∧
      servedBy (before .idle 0 .none 50 []) = some { cid := .seq, status := .ok, bytes := [] } ∧
      (giving.cdl ≤ giving.now + giving.cfg.tickMs) ∧ { giving with cdl := 51 }.now + giving.cfg.tickMs < 51 ∧
      servedBy (before .wExt 3 .none 51 []) = none ∧ rspOf (.exec [] .none) .reset = some .accepted ∧
      rspOf (.exec [] .none) (at50 .wAck) = some (.refused .active) := by decide

theorem witness_NoFailureOutsideTheTwelve :
    ∃ (t : State) (l : List EvtItem) (r : Res), Inv giving ∧ step giving = .next t ∧ t.evt = giving.evt ++ l ∧ .done r ∈ l ∧ r.ok = false :=
  ⟨_, _, _, inv_giving, rfl, rfl, List.mem_singleton.mpr rfl, rfl⟩

theorem witness_SuccessHasPassedEveryCheckAfterTheAck :
    ∃ (t : State) (l : List EvtItem) (r : Res), Inv closing ∧ step closing = .next t ∧ t.evt = closing.evt ++ l ∧ .done r ∈ l ∧ r.ok = true :=
  ⟨_, [.done { valid := true, ok := true, tag := .ok, cause := .ok, stage := .idle, blen := 2, body := [0xD5, 0x33] }], _,
    inv_closing, rfl, by decide, List.mem_singleton.mpr rfl, rfl⟩

/-- The same, with the declared length read under the extended marker. -/
def closingExtended : State :=
  { closing with hdr := [0x00, 0x00, 0xFF, 0xFF, 0xFF], extf := true, extb := [0x00, 0x02, 0xFE] }

theorem inv_closingExtended : Inv closingExtended :=
  { inv_closing with
    hdrLength := by decide
    extbLength := by decide
    markerCaptured := by decide
    lengthCaptured := fun _ => .inr ⟨rfl, rfl, 0x00, 0x02, 0xFE, rfl, by decide, by decide⟩ }

theorem witness_SuccessHasPassedEveryCheckAfterTheAck_extended :
    ∃ (t : State) (l : List EvtItem) (r : Res), Inv closingExtended ∧ step closingExtended = .next t ∧
      t.evt = closingExtended.evt ++ l ∧ .done r ∈ l ∧ r.ok = true :=
  ⟨_, [.done { valid := true, ok := true, tag := .ok, cause := .ok, stage := .idle, blen := 2, body := [0xD5, 0x33] }], _,
    inv_closingExtended, rfl, by decide, List.mem_singleton.mpr rfl, rfl⟩

/-- The smallest legal `ACC_CAP`, one byte held, and a chunk of as many bytes as the buffer holds. -/
def overflowing : State :=
  { State.reset with
    acc := [0x00], inq := [.rx (List.replicate 281 0x00)], cfg := { Config.vectors with accCap := some 281 } }

theorem inv_overflowing : Inv overflowing where
  legal := by decide
  queueBound := by decide
  behindHead := by decide
  seqRead := by decide
  resultIdle := by decide
  idleResult := by decide
  lengthBound := by decide
  wholeTicks := by decide
  timeWidth := ⟨nofun, nofun, fun _ _ => nofun⟩
  accBound := by intro cap h; cases h; decide
  unboundedNoFault := by decide
  cmdBound := by decide
  hdrLength := by decide
  extbLength := by decide
  markerCaptured := by decide
  lengthCaptured := nofun
  bodyBound := by decide
  bodyCaptured := by decide
  heldFailure := by decide
  result := by unfold resultOk; decide

theorem witness_OverflowFlagIsSticky :
    ∃ (t : State) (c : Bytes) (cap : Nat), Inv overflowing ∧ step overflowing = .next t ∧ ¬ resetNext overflowing ∧
      overflowing.cfg.accCap = some cap ∧ cap < overflowing.acc.length + c.length ∧ overflowing.inq.head? = some (.rx c) :=
  ⟨_, List.replicate 281 0x00, 281, inv_overflowing, step_rx rfl, (by rintro ⟨h, hh, _⟩; cases hh), rfl,
    by simp only [List.length_replicate]; decide, rfl⟩

theorem witness_TransactionTerminates :
    ∃ (s0 : State) (es : List Event), Config.vectors.Legal ∧ State.reset.q = [] ∧ exec (.exec [0xD4] .none) .reset = .next s0 ∧
      s0.rsp = .accepted ∧ State.reset.timeoutMs.toNat ≤ 1000 ∧ (∀ e ∈ es, allowedBy 1000 e) ∧
      Fits Config.vectors (0 + (5 * ticksFor 10 1000 + ticksFor 10 20) * 10 + max 1000 20) ∧
      5 * ticksFor 10 1000 + ticksFor 10 20 ≤ tickCount es := by
  refine ⟨_, List.replicate 502 .tick, by decide, rfl, rfl, rfl, by decide, ?_, nofun, ?_⟩
  · intro e he; rw [List.eq_of_mem_replicate he]; trivial
  · rw [tickCount, List.filter_replicate_of_pos (by decide), List.length_replicate]; decide

theorem witness_CorrectResponseIsDelivered :
    ∃ s0 : State, Config.vectors.Legal ∧ State.reset.q = [] ∧ State.reset.acc = [] ∧
      Stands (.exact [0xD5, 0x33]) (.exact [0xD5, 0x33]) ∧ [(0xD5 : Byte), 0x33].length ≤ 265 ∧
      evalValidator (.exact [0xD5, 0x33]) [0xD5, 0x33] = true ∧
      exec (.exec [0xD4] (.exact [0xD5, 0x33])) .reset = .next s0 ∧ s0.rsp = .accepted :=
  ⟨_, by decide, rfl, rfl, .inr (.inl ⟨_, rfl, rfl⟩), by decide, by decide, rfl, rfl⟩

/-- The extended case: 256 and 265 bytes, which take 5 ticks, the time within `W_TIME`. -/
theorem witness_CorrectResponseIsDelivered_extended :
    ∃ s0 : State, Config.vectors.Legal ∧ State.reset.q = [] ∧ State.reset.acc = [] ∧ Stands .none .none ∧
      (255 < (List.replicate 256 (0xAA : Byte)).length ∧ (List.replicate 256 (0xAA : Byte)).length ≤ 265) ∧
      (255 < (List.replicate 265 (0xAA : Byte)).length ∧ (List.replicate 265 (0xAA : Byte)).length ≤ 265) ∧
      evalValidator .none (List.replicate 256 0xAA) = true ∧ evalValidator .none (List.replicate 265 0xAA) = true ∧
      exec (.exec [0xD4] .none) .reset = .next s0 ∧ s0.rsp = .accepted ∧ Fits Config.vectors (0 + 5 * 10) := by
  simp only [List.length_replicate]
  exact ⟨_, by decide, rfl, rfl, .inl ⟨rfl, rfl⟩, by decide, by decide, rfl, rfl, rfl, rfl, nofun⟩

end Sys2Proof.Tests
end

section
/-! PROOF. CSUM (R12, R121): what the operation answers, and its value as an integer residue. -/

namespace Sys2Proof.Machine

/-- The meaning of CSUM: the checksum is answered, and the rest of the state is the frame. -/
@[simp] theorem exec_csum (b : Bytes) (s : State) : exec (.csum b) s = .next { s with rsp := .byte (csum b) } := rfl

/-- R12's `(0 - sum) mod 256` over the integers; `csum` itself computes with natural numbers. -/
theorem csum_toNat_eq_neg_byteSum_emod (b : Bytes) : ((csum b).toNat : Int) = (0 - (byteSum b : Int)) % 256 := by
  have hsum := byteSum_add_csum b
  have hbyte := (csum b).isLt
  omega

@[simp] theorem csum_nil : csum [] = 0x00 := (csum_eq_zero_iff []).mpr (by simp)

/-- Settles O1: the byte is `csum b`, the one byte that completes the sum to 0 mod 256. -/
theorem checksumIsTheNegatedSum : Obligations.ChecksumIsTheNegatedSum := by
  intro b s
  refine ⟨csum b, exec_csum b s, csum_toNat_eq_neg_byteSum_emod b, csum_eq_zero_iff b, ?_⟩
  rw [exec_csum, csum_nil]

end Sys2Proof.Machine
end

section
/-! PROOF. RESET (R48, R230): what the operation leaves, and the table of reset values. -/

namespace Sys2Proof.Machine

/-- The meaning of RESET: the block of a fresh state, with the parameters and what stands outside the block kept. -/
@[simp] theorem exec_reset (s : State) :
    exec .reset s =
      .next { State.resetWith s.cfg with rsp := .accepted, inq := s.inq, tpend := s.tpend, free := s.free } := rfl

/-- R48's table, row by row. -/
def HasResetValues (t : State) : Prop :=
  t.now = 0 ∧ t.acc = [] ∧ t.q = [] ∧ t.tkt = 0 ∧ t.accOvf = false ∧ t.st = .idle ∧ t.cmd = [] ∧ t.cv = .none ∧
    t.hdr = [] ∧ t.extb = [] ∧ t.body = [] ∧ t.rlen = 0 ∧ t.extf = false ∧ t.bdcs = 0x00 ∧
    t.ftag = .ok ∧ t.fcause = .ok ∧ t.fstage = .idle ∧ t.cdl = 0 ∧
    t.res = { valid := false, ok := false, tag := .ok, cause := .ok, stage := .idle, blen := 0, body := [] } ∧
    t.timeoutMs = 1000 ∧ t.out = [] ∧ t.evt = []

theorem hasResetValues_resetWith (c : Config) : HasResetValues (State.resetWith c) := by
  simp [HasResetValues, State.resetWith, Res.zero, timeoutDefault]

/-- The table has no row for the answer, the coming events, the transport's buffer or the counter of the free value. -/
theorem HasResetValues.keep {t : State} (h : HasResetValues t) (r : Rsp) (i : List Event) (p : Bytes) (n : Nat) :
    HasResetValues { t with rsp := r, inq := i, tpend := p, free := n } := h

/-- Settles O17: a RESET differs from the fresh state of `resetWith` only where the table has no row. -/
theorem resetValues : Obligations.ResetValues := by
  intro s
  have hfresh := hasResetValues_resetWith s.cfg
  exact ⟨⟨_, exec_reset s, hfresh.keep .accepted s.inq s.tpend s.free⟩, hasResetValues_resetWith Config.vectors, rfl, rfl, rfl⟩

end Sys2Proof.Machine
end

section
/-! PROOF. The codec's functions (R120 to R131): the form `ENC` chooses, `DECF` on a header and what follows it, and the round
trips. -/

namespace Sys2Proof

/-! ### Checksums and the encoders' form -/

theorem csum_append_csum (s : Bytes) : csum (s ++ [csum s]) = 0x00 := by
  rw [csum_eq_zero_iff]
  simpa using byteSum_add_csum s

theorem enc_of_length_le {p : Bytes} (h : p.length ≤ 255) : enc p = encn p := if_neg (Nat.not_lt.mpr h)

theorem enc_of_length_ge {p : Bytes} (h : 256 ≤ p.length) : enc p = encx p := if_pos h

theorem lenLo_eq_mod (n : Nat) : lenLo n = BitVec.ofNat 8 (n % 256) := by
  simp [lenLo, ← BitVec.toNat_inj]

/-- LEN and its LCS are never the extended marker: the checksum of `FF` is `01`. -/
theorem len_lcs_ne_marker (len : Byte) : ¬ (len = 0xFF ∧ csum [len] = 0xFF) := by
  rintro ⟨rfl, hlcs⟩
  exact absurd hlcs (by decide)

/-- The marker stands in the length field exactly in the extended form (R131 (c)). -/
theorem enc_marker_iff (p : Bytes) : ((enc p).drop 3).take 2 = [0xFF, 0xFF] ↔ 256 ≤ p.length := by
  rcases Nat.lt_or_ge p.length 256 with hshort | hlong
  · have hne := len_lcs_ne_marker (BitVec.ofNat 8 p.length)
    rw [enc_of_length_le (Nat.le_of_lt_succ hshort)]
    refine iff_of_false (fun hmarker => hne ?_) (Nat.not_le.mpr hshort)
    simpa [encn] using hmarker
  · simp [enc_of_length_ge hlong, encx, hlong]

/-- An encoded frame has at least seven bytes, the ACK six. -/
theorem isack_enc (p : Bytes) : isack (enc p) = false := by
  have hlen : 7 ≤ (enc p).length := by
    unfold enc
    split <;> simp
  refine decide_eq_false fun heq => ?_
  rw [heq] at hlen
  exact absurd hlen (by decide)

/-! ### DECF -/

/-- The last tests read nothing before the payload's offset. -/
theorem decfTail_eq_drop (limit n o : Nat) (f : Bytes) : decfTail limit n o f = decfTail limit n 0 (f.drop o) := by
  have hshort : f.length < o + n + 2 ↔ (f.drop o).length < 0 + n + 2 := by simp; omega
  have htrailing : o + n + 2 < f.length ↔ 0 + n + 2 < (f.drop o).length := by simp; omega
  simp only [decfTail, hshort, htrailing, List.drop_drop, Nat.zero_add, Nat.add_zero]

theorem decfTail_tooLong {limit n : Nat} (h : limit < n) (o : Nat) (f : Bytes) : decfTail limit n o f = .err .tooLong :=
  if_pos h

theorem decfTail_payload {limit : Nat} {p : Bytes} (h : p.length ≤ limit) :
    decfTail limit p.length 0 (p ++ [csum p, 0x00]) = .ok p := by
  simp [decfTail, chkt, Nat.not_lt.mpr h]

theorem decf_of_length_lt {f : Bytes} (h : f.length < 5) : decf f = .err .short := if_pos h

theorem preamble_passes : ¬ [(0x00 : Byte), 0x00, 0xFF] ≠ preamble := not_not.mpr rfl

/-- `DECF` on a header and what follows it: R129's tests in their order, the tail's on the bytes after the length. -/
theorem decf_header_append (b0 b1 b2 b3 b4 : Byte) (rest : Bytes) :
    decf ([b0, b1, b2, b3, b4] ++ rest) =
      if [b0, b1, b2] ≠ preamble then .err .badPreamble
      else if b3 = 0xFF ∧ b4 = 0xFF then
        if rest.length < 3 then .err .short
        else if (decx (rest.take 3)).lcsOk = false then .err .lcs
        else decfTail maxRespLen (decx (rest.take 3)).len.toNat 0 (rest.drop 3)
      else if (b3.toNat + b4.toNat) % 256 ≠ 0 then .err .lcs
      else decfTail maxRespLen b3.toNat 0 rest := by
  have hlen5 : ¬ rest.length + 5 < 5 := by omega
  have hlen8 : rest.length + 5 < 8 ↔ rest.length < 3 := by omega
  simp only [decf, decfWith, dech_five, decfTail_eq_drop _ _ 8, decfTail_eq_drop _ _ 5, List.cons_append, List.nil_append,
    List.length_cons, List.take_succ_cons, List.take_zero, List.drop_succ_cons, List.drop_zero]
  by_cases hmarker : b3 = 0xFF ∧ b4 = 0xFF
  · simp [hlen5, hlen8, hmarker]
  · simp only [hlen5, hmarker, decide_false, Bool.false_or, Bool.false_eq_true, if_false, Option.getD_some,
      decide_eq_false_iff_not]

theorem decf_badPreamble {b0 b1 b2 : Byte} (h : [b0, b1, b2] ≠ preamble) (b3 b4 : Byte) (rest : Bytes) :
    decf ([b0, b1, b2, b3, b4] ++ rest) = .err .badPreamble := by
  rw [decf_header_append, if_pos h]

theorem decf_marker_short {rest : Bytes} (h : rest.length < 3) :
    decf ([0x00, 0x00, 0xFF, 0xFF, 0xFF] ++ rest) = .err .short := by
  rw [decf_header_append, if_neg preamble_passes, if_pos ⟨rfl, rfl⟩, if_pos h]

theorem decf_marker (hi lo lcs : Byte) (rest : Bytes) :
    decf ([0x00, 0x00, 0xFF, 0xFF, 0xFF, hi, lo, lcs] ++ rest) =
      if (hi.toNat + lo.toNat + lcs.toNat) % 256 = 0 then decfTail maxRespLen (256 * hi.toNat + lo.toNat) 0 rest
      else .err .lcs := by
  have hthree : ¬ ([hi, lo, lcs] ++ rest).length < 3 := by simp
  have hsplit := decf_header_append 0x00 0x00 0xFF 0xFF 0xFF ([hi, lo, lcs] ++ rest)
  rw [if_neg preamble_passes, if_pos ⟨rfl, rfl⟩, if_neg hthree] at hsplit
  simpa [decx_three, toNat_bigEndian, -BitVec.toNat_ofNat] using hsplit

theorem decf_normal {len lcs : Byte} (h : ¬ (len = 0xFF ∧ lcs = 0xFF)) (rest : Bytes) :
    decf ([0x00, 0x00, 0xFF, len, lcs] ++ rest) =
      if (len.toNat + lcs.toNat) % 256 = 0 then decfTail maxRespLen len.toNat 0 rest else .err .lcs := by
  rw [decf_header_append, if_neg preamble_passes, if_neg h, ite_not]

theorem decf_encn {p : Bytes} (h : p.length ≤ 255) : decf (encn p) = .ok p := by
  have hlen : (BitVec.ofNat 8 p.length).toNat = p.length := by simp; omega
  have hlcs := byteSum_add_csum [BitVec.ofNat 8 p.length]
  rw [byteSum_cons, byteSum_nil, Nat.add_zero] at hlcs
  rw [encn, List.append_assoc, decf_normal (len_lcs_ne_marker _), if_pos hlcs, hlen,
    decfTail_payload (h.trans (by decide))]

/-- `DECF` reads back the length of an extended frame and comes to its last tests. -/
theorem decf_encx {p : Bytes} (h : p.length ≤ 65535) :
    decf (encx p) = decfTail maxRespLen p.length 0 (p ++ [csum p, 0x00]) := by
  have hlcs := byteSum_add_csum [lenHi p.length, lenLo p.length]
  rw [byteSum_cons, byteSum_cons, byteSum_nil, Nat.add_zero] at hlcs
  rw [encx, List.append_assoc, decf_marker, if_pos hlcs, lenHi_lenLo h]

/-- Settles O6: the two round trips go through `DECF`'s last tests, the other clauses through the frame's length and LEN. -/
theorem codecProperties : Obligations.CodecProperties := by
  refine ⟨byteSum_add_csum, fun p h => ⟨decf_encn h, csum_append_csum [_], csum_append_csum p⟩,
    fun p _ => enc_marker_iff p, fun p _ h => ?_, fun p hlong h => ?_, fun p _ => isack_enc p⟩
  · rw [decf_encx (h.trans (by decide)), decfTail_payload (limit := maxRespLen) h]
  · have hextended : 256 ≤ p.length := by omega
    rw [enc_of_length_ge hextended, decf_encx h, decfTail_tooLong (limit := maxRespLen) hlong]

end Sys2Proof
end

section
/-! PROOF. The codec's operations (R122 to R129): each answers its function's value, and the rest of the state is the frame. -/

namespace Sys2Proof.Machine

theorem exec_encn {p : Bytes} (h : p.length ≤ 255) (s : State) :
    exec (.encn p) s = .next { s with rsp := .bytes (encn p) } := if_pos h

theorem exec_encx {p : Bytes} (h : p.length ≤ 65535) (s : State) :
    exec (.encx p) s = .next { s with rsp := .bytes (encx p) } := if_pos h

theorem exec_enc {p : Bytes} (h : p.length ≤ 65535) (s : State) :
    exec (.enc p) s = .next { s with rsp := .bytes (enc p) } := if_pos h

@[simp] theorem exec_isack (b : Bytes) (s : State) :
    exec (.isack b) s = .next { s with rsp := .verdict (isack b) } := rfl

theorem exec_dech {h : Bytes} (hlen : h.length = 5) (s : State) :
    exec (.dech h) s = .next { s with rsp := .header (dech h) } := if_pos hlen

theorem exec_decx {e : Bytes} (hlen : e.length = 3) (s : State) :
    exec (.decx e) s = .next { s with rsp := .extLen (decx e) } := if_pos hlen

@[simp] theorem exec_chkt (b t : Bytes) (s : State) :
    exec (.chkt b t) s = .next { s with rsp := .verdict (chkt b t) } := rfl

@[simp] theorem exec_decf (f : Bytes) (s : State) :
    exec (.decf f) s = .next { s with rsp := .decoded (decf f) } := rfl

/-- Settles O2: ENCN's fields are the definition's; ENCX writes LEN_LO as `n` cut to a byte, which is `n % 256`. -/
theorem encodersBuildTheFrame : Obligations.EncodersBuildTheFrame := by
  intro p s n hi lo normal extended
  have hextended : encx p = extended := by rw [encx, lenLo_eq_mod]; rfl
  refine ⟨fun h => exec_encn h s, fun h => ?_, fun h => ?_, fun h256 h => ?_⟩
  · rw [exec_encx h, hextended]
  · rw [exec_enc (h.trans (by decide)), enc_of_length_le h]; rfl
  · rw [exec_enc h, enc_of_length_ge h256, hextended]

/-- Settles O3: every verdict is a test of equality on the bytes; DECH and DECX have the length they are stated for. -/
theorem decodersReadTheirBytes : Obligations.DecodersReadTheirBytes := by
  intro s b b0 b1 b2 b3 b4
  refine ⟨exec_isack b s, ?_, exec_decx rfl s, ?_⟩
  · rw [exec_dech rfl, dech_five]
    simp [preamble]
  · rw [exec_chkt, chkt]
    simp

/-- Settles O5: each clause is `DECF` on a header of its kind; the last tests are those on the bytes after the length. -/
theorem decfTestsInOrder : Obligations.DecfTestsInOrder := by
  intro s f rest b0 b1 b2 b3 b4 hi lo lcs answers marker tail
  have hanswers {f : Bytes} {r : DecfResult} (h : decf f = r) : answers f r := by rw [← h]; exact exec_decf f s
  have htail (n : Nat) : decfTail maxRespLen n 0 rest = tail n := by
    simp [decfTail, chkt, tail, maxRespLen]
  refine ⟨fun h => hanswers (decf_of_length_lt h), fun h => hanswers (decf_badPreamble h b3 b4 rest),
    fun h => hanswers (decf_marker_short h), fun h => hanswers ?_, fun h => hanswers ?_, fun hm h => hanswers ?_,
    fun hm h => hanswers ?_⟩
  · rw [decf_marker, if_neg h]
  · rw [decf_marker, if_pos h, htail]
  · rw [decf_normal hm, if_neg h]
  · rw [decf_normal hm, if_pos h, htail]

end Sys2Proof.Machine
end

section
/-! PROOF. RXB and enq (R153, R154, R162): the room in `ACC` decides what is kept of a chunk, the room in `Q` whether a read is
added. -/

namespace Sys2Proof.Machine

@[simp] theorem exec_rxb (c : Bytes) (s : State) : exec (.rxb c) s = .next (answer .none (receive c s)) := rfl

theorem accRoom_of_unbounded {s : State} (h : s.cfg.accCap = none) (n : Nat) : accRoom s n = n := by
  rw [accRoom, h]

theorem accRoom_of_cap {s : State} {cap : Nat} (h : s.cfg.accCap = some cap) (n : Nat) :
    accRoom s n = cap - s.acc.length := by
  rw [accRoom, h]

/-- With room a chunk is kept whole, and `ACC_OVF` stays as it was. -/
theorem receive_of_le_room {c : Bytes} {s : State} (h : c.length ≤ accRoom s c.length) :
    receive c s = { s with acc := s.acc ++ c } := by
  have hovf : (s.accOvf || decide (accRoom s c.length < c.length)) = s.accOvf := by
    rw [decide_eq_false (Nat.not_lt.mpr h), Bool.or_false]
  rw [receive, List.take_of_length_le h, hovf]

/-- Without room as much of the chunk is kept as there is room for, and `ACC_OVF` is set (R162). -/
theorem receive_of_room_lt {c : Bytes} {s : State} (h : accRoom s c.length < c.length) :
    receive c s = { s with acc := s.acc ++ c.take (accRoom s c.length), accOvf := true } := by
  rw [receive, decide_eq_true h, Bool.or_true]

@[simp] theorem exec_enq (n : Nat) (v : Validator) (t : BitVec 32) (cid : Cid) (s : State) :
    exec (.enq n v t cid) s = .next (answer .none (if s.q.length < s.cfg.qDepth then enqueue n v t cid s else s)) := rfl

/-- Settles O23: a chunk that fits is within the room, bounded or not; one that does not exceeds the `ACC_CAP - len(ACC)` left. -/
theorem chunkIsAppended : Obligations.ChunkIsAppended := by
  intro c s
  constructor
  · intro hfits
    have hroom : c.length ≤ accRoom s c.length := by
      obtain hunbounded | ⟨cap, hcap, hle⟩ := hfits
      · rw [accRoom_of_unbounded hunbounded]
      · rw [accRoom_of_cap hcap]
        omega
    rw [exec_rxb, receive_of_le_room hroom]
    rfl
  · intro cap hcap hacc hover
    have hroom : accRoom s c.length < c.length := by
      rw [accRoom_of_cap hcap]
      omega
    rw [exec_rxb, receive_of_room_lt hroom, accRoom_of_cap hcap]
    rfl

/-- Settles O33: with room, enq is the shared `enqueue`, which writes the entry at the end of `Q` and nothing else. -/
theorem enqueueAtTheEnd : Obligations.EnqueueAtTheEnd := by
  intro n v t cid s hroom
  rw [exec_enq, if_pos hroom]
  rfl

end Sys2Proof.Machine
end

section
/-! PROOF. The reactions of the sequencer (R184 to R188, R198): what each does with every completion, and the operations that run
them in their stage. -/

namespace Sys2Proof.Machine

/-! ### What each reaction does -/

@[simp] theorem reactAck_ok (bytes : Bytes) (s : State) : reactAck .ok bytes s = { seqRead 5 vPfx s with st := .wHdr } := rfl

/-- A failed ACK read is `no-ack`, the queue's status its cause. -/
theorem reactAck_failed {status : Status} (h : status ≠ .ok) (bytes : Bytes) (s : State) :
    reactAck status bytes s = cancelBegin .noAck status s := by
  cases status with
  | ok => exact absurd rfl h
  | timeout => rfl
  | checkFailed => rfl

/-- Under the marker nothing is asked of the LCS: `FF FF` has no good one. -/
theorem reactHdr_marker (b0 b1 b2 : Byte) (s : State) :
    reactHdr .ok [b0, b1, b2, 0xFF, 0xFF] s =
      { seqRead 3 .none { s with hdr := [b0, b1, b2, 0xFF, 0xFF], extf := true } with st := .wExt } := rfl

theorem reactHdr_normal {len lcs : Byte} (hmarker : ¬ (len = 0xFF ∧ lcs = 0xFF)) (hlcs : (len.toNat + lcs.toNat) % 256 = 0)
    (b0 b1 b2 : Byte) (s : State) :
    reactHdr .ok [b0, b1, b2, len, lcs] s =
      { seqRead len.toNat .none
          { s with hdr := [b0, b1, b2, len, lcs], extf := false, rlen := BitVec.ofNat 16 len.toNat } with
        st := .wBody } := by
  have hread : (len.setWidth 16).toNat = len.toNat := BitVec.toNat_setWidth_of_le (by decide)
  simp only [reactHdr, headerSeen, dech_five, decide_eq_false hmarker, hlcs, decide_true, Bool.or_true, Bool.false_eq_true,
    reduceCtorEq, if_false, Option.getD_some, hread, BitVec.ofNat_toNat]

theorem reactHdr_badLcs {len lcs : Byte} (hmarker : ¬ (len = 0xFF ∧ lcs = 0xFF)) (hlcs : (len.toNat + lcs.toNat) % 256 ≠ 0)
    (b0 b1 b2 : Byte) (s : State) :
    reactHdr .ok [b0, b1, b2, len, lcs] s =
      cancelBegin .responseChecksumError .ok { s with hdr := [b0, b1, b2, len, lcs], extf := false } := by
  simp only [reactHdr, headerSeen, dech_five, decide_eq_false hmarker, decide_eq_false hlcs, Bool.or_false,
    Bool.false_eq_true, if_false, if_true]

/-- A failed header read is `no-valid-message`, the queue's status its cause. -/
theorem reactHdr_failed {status : Status} (h : status ≠ .ok) (bytes : Bytes) (s : State) :
    reactHdr status bytes s = cancelBegin .noValidMessage status s := by
  cases status with
  | ok => exact absurd rfl h
  | timeout => rfl
  | checkFailed => rfl

theorem reactExt_badLcs {hi lo lcs : Byte} (hlcs : (hi.toNat + lo.toNat + lcs.toNat) % 256 ≠ 0) (s : State) :
    reactExt .ok [hi, lo, lcs] s = cancelBegin .responseChecksumError .ok { s with extb := [hi, lo, lcs] } := by
  simp [reactExt, extSeen, decx_three, hlcs]

theorem reactExt_tooLong {hi lo lcs : Byte} (hlcs : (hi.toNat + lo.toNat + lcs.toNat) % 256 = 0)
    (hlen : 265 < 256 * hi.toNat + lo.toNat) (s : State) :
    reactExt .ok [hi, lo, lcs] s =
      cancelBegin .responseTooLong .ok
        { s with extb := [hi, lo, lcs], rlen := BitVec.ofNat 16 (256 * hi.toNat + lo.toNat) } := by
  simp only [reactExt, extSeen, decx_three, hlcs, toNat_bigEndian, maxRespLen, hlen, decide_true, reduceCtorEq, if_true, if_false]

theorem reactExt_fits {hi lo lcs : Byte} (hlcs : (hi.toNat + lo.toNat + lcs.toNat) % 256 = 0)
    (hlen : 256 * hi.toNat + lo.toNat ≤ 265) (s : State) :
    reactExt .ok [hi, lo, lcs] s =
      { seqRead (256 * hi.toNat + lo.toNat) .none
          { s with extb := [hi, lo, lcs], rlen := BitVec.ofNat 16 (256 * hi.toNat + lo.toNat) } with
        st := .wBody } := by
  simp only [reactExt, extSeen, decx_three, hlcs, toNat_bigEndian, maxRespLen, Nat.not_lt.mpr hlen, decide_true, reduceCtorEq,
    if_false]

theorem reactExt_failed {status : Status} (h : status ≠ .ok) (bytes : Bytes) (s : State) :
    reactExt status bytes s = cancelBegin .timeout .timeout s := by
  cases status with
  | ok => exact absurd rfl h
  | timeout => rfl
  | checkFailed => rfl

@[simp] theorem reactBody_ok (bytes : Bytes) (s : State) :
    reactBody .ok bytes s = { seqRead 2 .none { s with body := bytes, bdcs := csum bytes } with st := .wTrl } := rfl

theorem reactBody_failed {status : Status} (h : status ≠ .ok) (bytes : Bytes) (s : State) :
    reactBody status bytes s = cancelBegin .timeout .timeout s := by
  cases status with
  | ok => exact absurd rfl h
  | timeout => rfl
  | checkFailed => rfl

theorem reactTrl_badTrailer {bytes : Bytes} {s : State} (h : bytes ≠ [s.bdcs, 0x00]) :
    reactTrl .ok bytes s = cancelBegin .responseChecksumError .ok s := if_pos h

/-- The caller's validator is asked under a good trailer only. -/
theorem reactTrl_goodTrailer (s : State) :
    reactTrl .ok [s.bdcs, 0x00] s =
      if evalValidator s.cv s.body = false then cancelBegin .checkFailed .ok s else finishOk s := if_neg (not_not.mpr rfl)

theorem reactTrl_rejected {s : State} (h : evalValidator s.cv s.body = false) :
    reactTrl .ok [s.bdcs, 0x00] s = cancelBegin .checkFailed .ok s := by
  rw [reactTrl_goodTrailer, if_pos h]

theorem reactTrl_accepted {s : State} (h : evalValidator s.cv s.body = true) :
    reactTrl .ok [s.bdcs, 0x00] s = finishOk s := by
  rw [reactTrl_goodTrailer, h, if_neg Bool.true_eq_false.mp]

theorem reactTrl_failed {status : Status} (h : status ≠ .ok) (bytes : Bytes) (s : State) :
    reactTrl status bytes s = cancelBegin .timeout .timeout s := by
  cases status with
  | ok => exact absurd rfl h
  | timeout => rfl
  | checkFailed => rfl

/-! ### The operations, in the stage that invokes them -/

theorem next_inStage {st : SeqState} {s : State} (h : s.st = st) (f : State → State) :
    (.next (answer .none (inStage st f s)) : Host.Outcome State Fault Refusal) = .next (answer .none (f s)) := by
  rw [inStage, if_pos h]

theorem exec_sAck {s : State} (h : s.st = .wAck) (status : Status) (bytes : Bytes) :
    exec (.sAck status bytes) s = .next (answer .none (reactAck status bytes s)) := next_inStage h _

theorem exec_sHdr {s : State} (h : s.st = .wHdr) {status : Status} {bytes : Bytes} (hlen : status = .ok → bytes.length = 5) :
    exec (.sHdr status bytes) s = .next (answer .none (reactHdr status bytes s)) :=
  (if_neg fun hdom => hdom.2 (hlen hdom.1)).trans (next_inStage h _)

theorem exec_sExt {s : State} (h : s.st = .wExt) {status : Status} {bytes : Bytes} (hlen : status = .ok → bytes.length = 3) :
    exec (.sExt status bytes) s = .next (answer .none (reactExt status bytes s)) :=
  (if_neg fun hdom => hdom.2 (hlen hdom.1)).trans (next_inStage h _)

theorem exec_sBody {s : State} (h : s.st = .wBody) (status : Status) (bytes : Bytes) :
    exec (.sBody status bytes) s = .next (answer .none (reactBody status bytes s)) := next_inStage h _

theorem exec_sTrl {s : State} (h : s.st = .wTrl) (status : Status) (bytes : Bytes) :
    exec (.sTrl status bytes) s = .next (answer .none (reactTrl status bytes s)) := next_inStage h _

theorem exec_finishOk {s : State} (h : s.st = .wTrl) : exec .finishOk s = .next (answer .none (finishOk s)) := next_inStage h _

/-- A failure raised in stage `st`, field by field (R196): the stage held is the one the state was in. -/
theorem answer_cancelBegin {st : SeqState} {s : State} (h : s.st = st) (r : Rsp) (tag : Tag) (cause : Status) :
    answer r (cancelBegin tag cause s) =
      { s with
        rsp := r
        st := .cancelWait
        ftag := tag
        fcause := cause
        fstage := st
        cdl := timeValue s.cfg (s.now + s.cfg.cancelWaitMs)
        out := s.out ++ [0x00, 0x00, 0xFF, 0x00, 0xFF, 0x00].map .tx } := by
  subst h; rfl

/-! ### The obligations -/

/-- Settles O34: both failed reads are the one failure `no-ack`, with the status as cause. -/
theorem ackReaction : Obligations.AckReaction := by
  intro bytes s hst on failed
  have hfailed {status : Status} (h : status ≠ .ok) : exec (.sAck status bytes) s = .next (failed status) := by
    rw [exec_sAck hst, reactAck_failed h, answer_cancelBegin hst]
  exact ⟨exec_sAck hst .ok bytes, hfailed nofun, hfailed nofun⟩

/-- Settles O35: a header of five bytes is the marker, or is told by its LCS; a failed read has no header. -/
theorem headerReaction : Obligations.HeaderReaction := by
  intro b0 b1 b2 len lcs bytes s hst read seen failed
  have hfailed {status : Status} (h : status ≠ .ok) :
      exec (.sHdr status bytes) s = .next (failed s .noValidMessage status) := by
    rw [exec_sHdr hst fun hok => absurd hok h, reactHdr_failed h, answer_cancelBegin hst]
  refine ⟨?_, fun hmarker => ⟨fun hlcs => ?_, fun hlcs => ?_⟩, hfailed nofun, hfailed nofun⟩
  · rw [exec_sHdr hst fun _ => rfl, reactHdr_marker]; rfl
  · rw [exec_sHdr hst fun _ => rfl, reactHdr_normal hmarker hlcs]; rfl
  · rw [exec_sHdr hst fun _ => rfl, reactHdr_badLcs hmarker hlcs]
    exact congrArg Host.Outcome.next (answer_cancelBegin (by exact hst) _ _ _)

/-- Settles O36: along the chain of R186's tests, checksum, then length. -/
theorem extendedLengthReaction : Obligations.ExtendedLengthReaction := by
  intro hi lo lcs bytes status s hst n seen failed result
  refine ⟨?_, fun h => ?_⟩
  · rw [exec_sExt hst fun _ => rfl]
    by_cases hlcs : (hi.toNat + lo.toNat + lcs.toNat) % 256 = 0
    · by_cases hlen : 265 < n
      · have hresult : result = failed { seen with rlen := BitVec.ofNat 16 n } .responseTooLong .ok :=
          (if_neg (not_not.mpr hlcs)).trans (if_pos hlen)
        rw [hresult, reactExt_tooLong hlcs hlen]
        exact congrArg Host.Outcome.next (answer_cancelBegin (by exact hst) _ _ _)
      · rw [reactExt_fits hlcs (Nat.not_lt.mp hlen)]
        exact congrArg Host.Outcome.next ((if_neg (not_not.mpr hlcs)).trans (if_neg hlen)).symm
    · have hresult : result = failed seen .responseChecksumError .ok := if_pos hlcs
      rw [hresult, reactExt_badLcs hlcs]
      exact congrArg Host.Outcome.next (answer_cancelBegin (by exact hst) _ _ _)
  · rw [exec_sExt hst fun hok => absurd hok h, reactExt_failed h, answer_cancelBegin hst]

/-- Settles O37: the body is captured as it was read, or the read failed. -/
theorem bodyReaction : Obligations.BodyReaction := by
  intro bytes status s hst on
  refine ⟨exec_sBody hst .ok bytes, fun h => ?_⟩
  rw [exec_sBody hst, reactBody_failed h, answer_cancelBegin hst]

/-- Settles O38: the trailer decides first; under a good one the validator's verdict on the body. -/
theorem trailerReaction : Obligations.TrailerReaction := by
  intro dcs post bytes status s hst failed good finished
  refine ⟨fun hbad => ?_, ?_, ?_, fun h => ?_⟩
  · have htrailer : [dcs, post] ≠ [s.bdcs, 0x00] := by simpa using hbad
    rw [exec_sTrl hst, reactTrl_badTrailer htrailer, answer_cancelBegin hst]
  · rintro rfl rfl hrejected
    rw [exec_sTrl hst, reactTrl_rejected hrejected, answer_cancelBegin hst]
  · rintro rfl rfl haccepted
    rw [exec_sTrl hst, reactTrl_accepted haccepted]
    rfl
  · rw [exec_sTrl hst, reactTrl_failed h, answer_cancelBegin hst]

/-- Settles O40: in `W_TRL` the operation is `finishOk`, which writes the record, `IDLE` and the `DONE`. -/
theorem successfulEnd : Obligations.SuccessfulEnd := fun _ hst => exec_finishOk hst

end Sys2Proof.Machine
end

section
/-! PROOF. The transitions of `ST` (R181): the rows of a tick, the rows of the host port, and the events that have no row. -/

namespace Sys2Proof.Machine

/-- A transaction has failed with `tag`, and its cancel runs. -/
def FailsWith (tag : Tag) (s : State) : Prop := s.st = .cancelWait ∧ s.ftag = tag

theorem cancelBegin_failsWith (tag : Tag) (cause : Status) (s : State) : FailsWith tag (cancelBegin tag cause s) := ⟨rfl, rfl⟩

/-! ### The tick -/

theorem service_withInq_completion (s : State) (l : List Event) : (service { s with inq := l }).2 = (service s).2 := by
  cases hq : s.q with
  | nil => simp only [service, hq]
  | cons e rest => simp only [service, hq, apply_ite Prod.snd]

/-- A delivery moves `ST` in a reaction only. -/
theorem deliver_st_of_not_seq {c : Option Completion}
    (hc : ∀ status bytes, c ≠ some { cid := .seq, status := status, bytes := bytes }) (s : State) : (deliver c s).st = s.st := by
  match c with
  | none => rfl
  | some { cid := .raw k, status := status, bytes := bytes } => rfl
  | some { cid := .seq, status := status, bytes := bytes } => exact absurd rfl (hc status bytes)

/-- Outside `CANCEL_WAIT` a tick that ends no read of the sequencer leaves `ST`. -/
theorem tick_st_of_not_seq {s : State}
    (hc : ∀ status bytes, (service (advance s)).2 ≠ some { cid := .seq, status := status, bytes := bytes })
    (hst : s.st ≠ .cancelWait) : (tick s).st = s.st := by
  rw [tick_of_ne hst, deliver_st_of_not_seq hc, service_st, advance_st]

/-- The rows of `CANCEL_WAIT`: the wait is over, and the failure is the result. -/
theorem tick_of_due {s : State} (hst : s.st = .cancelWait) (hdue : s.cdl ≤ timeValue s.cfg (s.now + s.cfg.tickMs)) :
    (tick s).st = .idle ∧ (tick s).res.valid = true ∧ (tick s).res.ok = false := by
  rw [tick_of_cancelWait hst, if_pos hdue]
  exact ⟨rfl, rfl, rfl⟩

theorem tick_st_of_not_due {s : State} (hst : s.st = .cancelWait) (hdue : timeValue s.cfg (s.now + s.cfg.tickMs) < s.cdl) :
    (tick s).st = .cancelWait := by
  obtain ⟨l, hdeliver, _⟩ :=
    deliver_cancelWait (service (advance s)).2 (s := (service (advance s)).1) (by rw [service_st, advance_st, hst])
  rw [tick_of_cancelWait hst, if_neg (Nat.not_le.mpr hdue), hdeliver]
  simp [hst]

section
variable {s : State} {status : Status} {bytes : Bytes}
  (hc : (service (advance s)).2 = some { cid := .seq, status := status, bytes := bytes })
include hc

/-- Outside `CANCEL_WAIT` a tick whose `SVC` ends the sequencer's read is the reaction of the stage (R157, R200). -/
theorem tick_of_seq (hst : s.st ≠ .cancelWait) : tick s = react status bytes (service (advance s)).1 := by
  rw [tick_of_ne hst, hc, deliver_seq]

theorem tick_st_of_idle (hst : s.st = .idle) : (tick s).st = .idle := by
  simp [tick_of_seq hc, hst, react]

/-- The rows of `W_ACK`. -/
theorem tick_transitions_of_wAck (hst : s.st = .wAck) :
    (status = .ok → (tick s).st = .wHdr) ∧ (status ≠ .ok → FailsWith .noAck (tick s)) := by
  have htick : tick s = reactAck status bytes (service (advance s)).1 := by simp [tick_of_seq hc, hst, react]
  rw [htick]
  refine ⟨?_, fun h => ?_⟩
  · rintro rfl
    rw [reactAck_ok]
  · rw [reactAck_failed h]
    exact cancelBegin_failsWith _ _ _

theorem tick_of_wHdr (hst : s.st = .wHdr) : tick s = reactHdr status bytes (service (advance s)).1 := by
  simp [tick_of_seq hc, hst, react]

/-- The row of `W_HDR` for a failed read. -/
theorem tick_failsWith_of_wHdr (hst : s.st = .wHdr) (h : status ≠ .ok) : FailsWith .noValidMessage (tick s) := by
  rw [tick_of_wHdr hc hst, reactHdr_failed h]
  exact cancelBegin_failsWith _ _ _

/-- The rows of `W_HDR` for a header that was read. -/
theorem tick_transitions_of_wHdr {b0 b1 b2 b3 b4 : Byte} (hst : s.st = .wHdr) (hok : status = .ok)
    (hbytes : bytes = [b0, b1, b2, b3, b4]) :
    (b3 = 0xFF ∧ b4 = 0xFF → (tick s).st = .wExt) ∧
      (¬ (b3 = 0xFF ∧ b4 = 0xFF) → (b3.toNat + b4.toNat) % 256 = 0 → (tick s).st = .wBody) ∧
      (¬ (b3 = 0xFF ∧ b4 = 0xFF) → (b3.toNat + b4.toNat) % 256 ≠ 0 → FailsWith .responseChecksumError (tick s)) := by
  subst hok hbytes
  rw [tick_of_wHdr hc hst]
  refine ⟨?_, fun hmarker hlcs => ?_, fun hmarker hlcs => ?_⟩
  · rintro ⟨rfl, rfl⟩
    rw [reactHdr_marker]
  · rw [reactHdr_normal hmarker hlcs]
  · rw [reactHdr_badLcs hmarker hlcs]
    exact cancelBegin_failsWith _ _ _

theorem tick_of_wExt (hst : s.st = .wExt) : tick s = reactExt status bytes (service (advance s)).1 := by
  simp [tick_of_seq hc, hst, react]

/-- The row of `W_EXT` for a failed read (U1). -/
theorem tick_failsWith_of_wExt (hst : s.st = .wExt) (h : status ≠ .ok) : FailsWith .timeout (tick s) := by
  rw [tick_of_wExt hc hst, reactExt_failed h]
  exact cancelBegin_failsWith _ _ _

/-- The rows of `W_EXT` for three length bytes that were read (U1). -/
theorem tick_transitions_of_wExt {e0 e1 e2 : Byte} (hst : s.st = .wExt) (hok : status = .ok) (hbytes : bytes = [e0, e1, e2]) :
    ((e0.toNat + e1.toNat + e2.toNat) % 256 ≠ 0 → FailsWith .responseChecksumError (tick s)) ∧
      ((e0.toNat + e1.toNat + e2.toNat) % 256 = 0 → 256 * e0.toNat + e1.toNat ≤ 265 → (tick s).st = .wBody) ∧
      ((e0.toNat + e1.toNat + e2.toNat) % 256 = 0 → 265 < 256 * e0.toNat + e1.toNat →
        FailsWith .responseTooLong (tick s)) := by
  subst hok hbytes
  rw [tick_of_wExt hc hst]
  refine ⟨fun hlcs => ?_, fun hlcs hlen => ?_, fun hlcs hlen => ?_⟩
  · rw [reactExt_badLcs hlcs]
    exact cancelBegin_failsWith _ _ _
  · rw [reactExt_fits hlcs hlen]
  · rw [reactExt_tooLong hlcs hlen]
    exact cancelBegin_failsWith _ _ _

/-- The rows of `W_BODY`. -/
theorem tick_transitions_of_wBody (hst : s.st = .wBody) :
    (status = .ok → (tick s).st = .wTrl) ∧ (status ≠ .ok → FailsWith .timeout (tick s)) := by
  have htick : tick s = reactBody status bytes (service (advance s)).1 := by simp [tick_of_seq hc, hst, react]
  rw [htick]
  refine ⟨?_, fun h => ?_⟩
  · rintro rfl
    rw [reactBody_ok]
  · rw [reactBody_failed h]
    exact cancelBegin_failsWith _ _ _

/-- The rows of `W_TRL`: `SVC` has changed neither `BDCS` nor the validator nor the body. -/
theorem tick_transitions_of_wTrl (hst : s.st = .wTrl) :
    (status ≠ .ok → FailsWith .timeout (tick s)) ∧
      (status = .ok → bytes ≠ [s.bdcs, 0x00] → FailsWith .responseChecksumError (tick s)) ∧
      (status = .ok → bytes = [s.bdcs, 0x00] → evalValidator s.cv s.body = false → FailsWith .checkFailed (tick s)) ∧
      (status = .ok → bytes = [s.bdcs, 0x00] → evalValidator s.cv s.body = true →
        (tick s).st = .idle ∧ (tick s).res.valid = true ∧ (tick s).res.ok = true) := by
  have htick : tick s = reactTrl status bytes (service (advance s)).1 := by simp [tick_of_seq hc, hst, react]
  have hbdcs : (service (advance s)).1.bdcs = s.bdcs := service_bdcs _
  have hcv : (service (advance s)).1.cv = s.cv := service_cv _
  have hbody : (service (advance s)).1.body = s.body := service_body _
  rw [htick, ← hbdcs, ← hcv, ← hbody]
  refine ⟨fun h => ?_, ?_, ?_, ?_⟩
  · rw [reactTrl_failed h]
    exact cancelBegin_failsWith _ _ _
  · rintro rfl hbad
    rw [reactTrl_badTrailer hbad]
    exact cancelBegin_failsWith _ _ _
  · rintro rfl rfl hrejected
    rw [reactTrl_rejected hrejected]
    exact cancelBegin_failsWith _ _ _
  · rintro rfl rfl haccepted
    rw [reactTrl_accepted haccepted]
    exact ⟨rfl, rfl, rfl⟩
end

/-! ### The host port and the other events -/

/-- A host operation that waits first runs (R106, R235). -/
theorem step_host {s : State} {h : HostCmd} {l : List Event} (hq : s.inq = .host h :: l) :
    step s = exec (decodeHost h) { s with inq := l } := by
  simp only [step, fetch, hq]

/-- The rows of the host port: an accepted `EXEC` leaves `IDLE`, a `RESET` goes there, and nothing else moves `ST`. -/
theorem host_transitions {s t : State} {h : HostCmd} (hexec : exec (decodeHost h) s = .next t) :
    (h.op = 0x1 → t.rsp = .accepted → s.st = .idle ∧ t.st = .wAck) ∧
      (h.op = 0xF → t.st = .idle) ∧
      (h.op ≠ 0xF → ¬ (h.op = 0x1 ∧ t.rsp = .accepted) → t.st = s.st) := by
  obtain ⟨r, _, _, hnf, he⟩ | ⟨hop, he⟩ | ⟨v, hop, _, hidle, _, _, he⟩ | ⟨v, hop, _, _, he⟩ | ⟨hop, he⟩ | ⟨hop, he⟩ :=
    exec_decodeHost_cases h s <;> cases he.symm.trans hexec
  · exact ⟨fun _ hacc => (nomatch hacc), fun hf => absurd hf hnf, fun _ _ => rfl⟩
  · simp [hop]
  · simp [hop, hidle]
  · simp [hop]
  · simp [hop]
  · simp [hop, hardReset, State.resetWith]

/-- No event but a tick or a host operation moves `ST` (R154, R298). -/
theorem step_st_of_not_tick_host {s t : State} (hstep : step s = .next t) (htick : s.inq.head? ≠ some .tick)
    (hhost : ∀ h, s.inq.head? ≠ some (.host h)) : t.st = s.st := by
  cases step_cases hstep with
  | idle _ | reader _ _ _ | noDelivery _ _ _ _ | delivery _ _ _ _ _ | chunk _ _ _ => rfl
  | tick l hq => exact absurd (by rw [hq]; rfl) htick
  | refused h l r hq _ _ _ | nop h l hq _ | exec h l v hq _ _ _ _ _ | enq h l v hq _ _ _ | cfgw h l hq _ | reset h l hq _ =>
    exact absurd (by rw [hq]; rfl) (hhost h)

/-- Settles O51: a tick runs the rows of its state, a host operation those of the port, and no other event has a row. -/
theorem sequencerTransitions : Obligations.SequencerTransitions := by
  intro s t hstep failsWith now c
  refine ⟨fun htick => ?_, fun h hhost => ?_, step_st_of_not_tick_host hstep⟩
  · obtain ⟨l, hq⟩ := List.head?_eq_some_iff.mp htick
    let s' : State := { s with inq := l }
    have hserved : (service (advance s')).2 = c := service_withInq_completion (advance s) l
    have ht : t = answer .none (tick s') := Host.Outcome.next.inj (hstep.symm.trans (step_tick hq))
    subst ht
    refine ⟨fun status bytes hc => ?_, tick_of_due (s := s'), tick_st_of_not_due (s := s'),
      fun hc => tick_st_of_not_seq (s := s') (hserved ▸ hc)⟩
    have hc := hserved.trans hc
    exact ⟨tick_transitions_of_wAck hc, tick_failsWith_of_wHdr hc,
      fun _ _ _ _ _ => tick_transitions_of_wHdr hc, tick_failsWith_of_wExt hc,
      fun _ _ _ => tick_transitions_of_wExt hc, tick_transitions_of_wBody hc, tick_transitions_of_wTrl hc,
      tick_st_of_idle hc⟩
  · obtain ⟨l, hq⟩ := List.head?_eq_some_iff.mp hhost
    exact host_transitions (s := { s with inq := l }) ((step_host hq).symm.trans hstep)

end Sys2Proof.Machine
end

section
/-! PROOF. The host port (R107, R182, R233, R236, R237): NOP, the reserved codes, and the refusals of EXEC and ENQ in their
order. -/

namespace Sys2Proof.Machine

@[simp] theorem exec_nop (s : State) : exec .nop s = .next { s with rsp := .accepted } := rfl

/-- Settles O13: the operation is its answer. -/
theorem nopChangesNothing : Obligations.NopChangesNothing := exec_nop

/-! ### The reserved codes -/

/-- The rows of the reserved `cmd_op` codes, `4` to `E` in order (R107). -/
def reservedRows : List Instr :=
  [.reserved4, .reserved5, .reserved6, .reserved7, .reserved8, .reserved9, .reservedA, .reservedB, .reservedC, .reservedD,
    .reservedE]

theorem exec_of_mem_reservedRows (s : State) : ∀ i ∈ reservedRows, exec i s = .next { s with rsp := .refused .badOp } :=
  List.forall_iff_forall_mem.mp ⟨rfl, rfl, rfl, rfl, rfl, rfl, rfl, rfl, rfl, rfl, rfl⟩

theorem decodeHost_mem_reservedRows {h : HostCmd} (hlo : 4 ≤ h.op.toNat) (hhi : h.op.toNat ≤ 14) :
    decodeHost h ∈ reservedRows := by
  unfold decodeHost
  interval_cases h.op.toNat <;> simp [reservedRows]

/-- A reserved `cmd_op` is refused whatever the operand fields hold (R237). -/
theorem exec_decodeHost_of_reserved {h : HostCmd} (hlo : 4 ≤ h.op.toNat) (hhi : h.op.toNat ≤ 14) (s : State) :
    exec (decodeHost h) s = .next { s with rsp := .refused .badOp } :=
  exec_of_mem_reservedRows s _ (decodeHost_mem_reservedRows hlo hhi)

/-! ### The validator operand -/

theorem not_loadable_reserved (cap : Nat) : ¬ Loadable cap .reserved := fun h => h.1 rfl

theorem loadable_exact_iff {cap : Nat} {p : Bytes} : Loadable cap (.exact p) ↔ p.length ≤ cap := by
  simp [Loadable]

/-- What the port takes and what `loadValidator` loads is the same (R63, R107). -/
theorem loadValidator_eq_none_iff {cap : Nat} {va : VArg} : loadValidator cap va = none ↔ ¬ Loadable cap va := by
  cases va with
  | none => simp [loadValidator, Loadable]
  | exact p => simp [loadValidator, loadable_exact_iff]
  | pred f => simp [loadValidator, Loadable]
  | reserved => simp [loadValidator, not_loadable_reserved]

theorem exists_loadValidator_of_loadable {cap : Nat} {va : VArg} (h : Loadable cap va) :
    ∃ v, loadValidator cap va = some v :=
  Option.ne_none_iff_exists'.mp fun hnone => loadValidator_eq_none_iff.mp hnone h

theorem decodeVArg_of_vkind_three {h : HostCmd} (hkind : h.vkind = 3) : decodeVArg h = .reserved := by
  rw [decodeVArg, hkind]
  rfl

theorem decodeHost_of_op_exec {h : HostCmd} (hop : h.op = 0x1) : decodeHost h = .exec h.cmd (decodeVArg h) := by
  rw [decodeHost, hop]
  rfl

theorem decodeHost_of_op_enq {h : HostCmd} (hop : h.op = 0x2) : decodeHost h = .hostEnq h.count (decodeVArg h) h.value := by
  rw [decodeHost, hop]
  rfl

/-! ### The refusals of EXEC -/

section
variable {cmd : Bytes} {va : VArg} {s : State}

theorem exec_exec : exec (.exec cmd va) s = .next (hostExec cmd va s) := rfl

theorem exec_exec_of_not_loadable (h : ¬ Loadable 265 va) :
    exec (.exec cmd va) s = .next { s with rsp := .refused .badOp } := by
  have hload : loadValidator seqPatCap va = none := loadValidator_eq_none_iff.mpr h
  rw [exec_exec, hostExec, hload]
  rfl

/-- The tests of EXEC behind a validator that was loaded (R182, R236). -/
theorem exec_exec_of_loaded {v : Validator} (hload : loadValidator seqPatCap va = some v) :
    exec (.exec cmd va) s =
      .next (if s.st ≠ .idle then refuse .active s
        else if s.cfg.cmdCap < cmd.length then refuse .tooLong s
        else if s.cfg.qDepth ≤ s.q.length then refuse .qFull s
        else answer .accepted (startTxn cmd v s)) := by
  rw [exec_exec, hostExec, hload]

theorem exec_exec_of_active (h : Loadable 265 va) (hst : s.st ≠ .idle) :
    exec (.exec cmd va) s = .next { s with rsp := .refused .active } := by
  obtain ⟨v, hload⟩ := exists_loadValidator_of_loadable h
  rw [exec_exec_of_loaded hload, if_pos hst]
  rfl

theorem exec_exec_of_tooLong (h : Loadable 265 va) (hst : s.st = .idle) (hlong : s.cfg.cmdCap < cmd.length) :
    exec (.exec cmd va) s = .next { s with rsp := .refused .tooLong } := by
  obtain ⟨v, hload⟩ := exists_loadValidator_of_loadable h
  rw [exec_exec_of_loaded hload, if_neg (not_not.mpr hst), if_pos hlong]
  rfl

theorem exec_exec_of_qFull (h : Loadable 265 va) (hst : s.st = .idle) (hcmd : cmd.length ≤ s.cfg.cmdCap)
    (hfull : s.cfg.qDepth ≤ s.q.length) : exec (.exec cmd va) s = .next { s with rsp := .refused .qFull } := by
  obtain ⟨v, hload⟩ := exists_loadValidator_of_loadable h
  rw [exec_exec_of_loaded hload, if_neg (not_not.mpr hst), if_neg (Nat.not_lt.mpr hcmd), if_pos hfull]
  rfl

end

/-! ### The refusals of ENQ -/

section
variable {n : BitVec 16} {va : VArg} {t : BitVec 32} {s : State}

theorem exec_hostEnq : exec (.hostEnq n va t) s = .next (hostEnq n va t s) := rfl

theorem exec_hostEnq_of_not_loadable (h : ¬ Loadable s.cfg.rawPatCap va) :
    exec (.hostEnq n va t) s = .next { s with rsp := .refused .badOp } := by
  rw [exec_hostEnq, hostEnq, loadValidator_eq_none_iff.mpr h]
  rfl

/-- The test of ENQ behind a validator that was loaded (R152, R236). -/
theorem exec_hostEnq_of_loaded {v : Validator} (hload : loadValidator s.cfg.rawPatCap va = some v) :
    exec (.hostEnq n va t) s =
      .next (if s.cfg.qDepth ≤ s.q.length then refuse .qFull s
        else answer (.ticket s.tkt) (enqueue n.toNat v t (.raw s.tkt) { s with tkt := s.tkt + 1 })) := by
  rw [exec_hostEnq, hostEnq, hload]

theorem exec_hostEnq_of_qFull (h : Loadable s.cfg.rawPatCap va) (hfull : s.cfg.qDepth ≤ s.q.length) :
    exec (.hostEnq n va t) s = .next { s with rsp := .refused .qFull } := by
  obtain ⟨v, hload⟩ := exists_loadValidator_of_loadable h
  rw [exec_hostEnq_of_loaded hload, if_pos hfull]
  rfl

end

/-! ### The obligations -/

/-- Settles O19: a reserved code decodes to one of `reservedRows`, and the validator kind 3 is never loadable. -/
theorem reservedCodesAreRefused : Obligations.ReservedCodesAreRefused := by
  intro s
  refine ⟨fun _ hlo hhi => exec_decodeHost_of_reserved hlo hhi s, fun h hop hkind => ?_,
    List.forall_iff_forall_mem.mpr (exec_of_mem_reservedRows s)⟩
  obtain hexec | henq := hop
  · rw [decodeHost_of_op_exec hexec, decodeVArg_of_vkind_three hkind]
    exact exec_exec_of_not_loadable (not_loadable_reserved _)
  · rw [decodeHost_of_op_enq henq, decodeVArg_of_vkind_three hkind]
    exact exec_hostEnq_of_not_loadable (not_loadable_reserved _)

/-- Settles O20: each clause is the first test of R236's order that applies; a full queue is at its depth. -/
theorem refusalsInOrder : Obligations.RefusalsInOrder := by
  intro s
  exact ⟨fun _ hlo hhi => exec_decodeHost_of_reserved hlo hhi s,
    fun _ _ hload => exec_exec_of_not_loadable hload,
    fun _ _ hload hst => exec_exec_of_active hload hst,
    fun _ _ hload hst hlong => exec_exec_of_tooLong hload hst hlong,
    fun _ _ hload hst hcmd hfull => exec_exec_of_qFull hload hst hcmd hfull.ge,
    fun _ _ _ hload => exec_hostEnq_of_not_loadable hload,
    fun _ _ _ hload hfull => exec_hostEnq_of_qFull hload hfull.ge,
    rfl, rfl, rfl, rfl, rfl, fun _ => rfl⟩

end Sys2Proof.Machine
end

section
/-! PROOF. Completions (R272, R279): what each event adds to `EVT`, and the failures a `DONE` can carry. -/

namespace Sys2Proof.Machine

/-! ### What a tick adds to `EVT` -/

/-- At most one `RAWDONE`, and nothing else. -/
inductive RawDones : List EvtItem → Prop where
  | none : RawDones []
  | one (k : BitVec 16) (status : Status) (bytes : Bytes) : RawDones [.rawdone k status bytes]

theorem RawDones.length_le {raws : List EvtItem} (h : RawDones raws) : raws.length ≤ 1 := by
  cases h <;> simp

theorem RawDones.eq_rawdone_of_mem {raws : List EvtItem} (h : RawDones raws) :
    ∀ x ∈ raws, ∃ k status bytes, x = .rawdone k status bytes := by
  cases h with
  | none => exact nofun
  | one k status bytes => exact fun x hx => ⟨k, status, bytes, List.mem_singleton.mp hx⟩

theorem RawDones.done_notMem {raws : List EvtItem} (h : RawDones raws) (r : Res) : .done r ∉ raws := fun hr => by
  obtain ⟨_, _, _, hraw⟩ := h.eq_rawdone_of_mem _ hr
  cases hraw

/-- The `RAWDONE`s and `DONE`s a tick from `s` produces, with the record it leaves in `RES` (R197, R198, R200): the record changes
exactly with a `DONE`, which carries it. -/
inductive TickCompletions (s : State) : (raws dones : List EvtItem) → (res : Res) → Prop where
  | noDone {raws : List EvtItem} (hraws : RawDones raws) : TickCompletions s raws [] s.res
  | success (hst : s.st = .wTrl) : TickCompletions s [] [.done (okRes s)] (okRes s)
  | failure {raws : List EvtItem} (hraws : RawDones raws) (hst : s.st = .cancelWait) :
    TickCompletions s raws [.done (failedRes s)] (failedRes s)

theorem TickCompletions.rawDones {s : State} {raws dones : List EvtItem} {res : Res} (h : TickCompletions s raws dones res) :
    RawDones raws := by
  cases h with
  | noDone hraws => exact hraws
  | success _ => exact .none
  | failure hraws _ => exact hraws

theorem TickCompletions.dones_eq {s : State} {raws dones : List EvtItem} {res : Res} (h : TickCompletions s raws dones res) :
    dones = [] ∨ ∃ r, dones = [.done r] := by
  cases h with
  | noDone _ => exact .inl rfl
  | success _ => exact .inr ⟨_, rfl⟩
  | failure _ _ => exact .inr ⟨_, rfl⟩

/-- A `DONE` of a failure is the one that ends the cancel wait. -/
theorem TickCompletions.of_done_failed {s : State} {raws dones : List EvtItem} {res r : Res}
    (h : TickCompletions s raws dones res) (hr : .done r ∈ dones) (hfail : r.ok = false) :
    s.st = .cancelWait ∧ r = failedRes s ∧ res = r := by
  cases h with
  | noDone _ => cases hr
  | success _ =>
    cases List.mem_singleton.mp hr
    cases hfail
  | failure _ hst =>
    cases List.mem_singleton.mp hr
    exact ⟨hst, rfl, rfl⟩

/-- A reaction completes nothing, or is the successful end of `W_TRL`. -/
theorem react_completes_cases (status : Status) (bytes : Bytes) (s : State) :
    ((react status bytes s).evt = s.evt ∧ (react status bytes s).res = s.res) ∨
      (s.st = .wTrl ∧ react status bytes s = finishOk s) := by
  obtain ⟨_, hreact⟩ | ⟨tag, cause, s1, _, ⟨_, _, _, _, _, _, rfl⟩, _, hreact⟩ |
    ⟨n, v, st, s1, _, ⟨_, _, _, _, _, _, rfl⟩, _, hreact⟩ | ⟨hst, _, _, _, hreact⟩ := react_cases status bytes s
  · exact .inl (by simp [hreact])
  · exact .inl (by simp [hreact])
  · exact .inl (by simp [hreact])
  · exact .inr ⟨hst, hreact⟩

/-- `SVC` and the advance of `NOW` touch nothing that the records of a finished transaction are made of. -/
@[simp] theorem okRes_service_advance (s : State) : okRes (service (advance s)).1 = okRes s := by simp [okRes]

theorem failedRes_service_advance_withEvt (s : State) (l : List EvtItem) :
    failedRes { (service (advance s)).1 with evt := l } = failedRes s := by simp [failedRes]

/-- In `CANCEL_WAIT` the delivery may be a `RAWDONE`; the end of the wait comes after it. -/
theorem tick_completions_of_cancelWait {s : State} (hst : s.st = .cancelWait) :
    ∃ raws dones, (tick s).evt = s.evt ++ raws ++ dones ∧ TickCompletions s raws dones (tick s).res := by
  obtain ⟨raws, hdeliver, hcases⟩ :=
    deliver_cancelWait (service (advance s)).2 (s := (service (advance s)).1) (by simp [hst])
  have hraws : RawDones raws := by
    obtain rfl | ⟨k, status, bytes, _, rfl⟩ := hcases
    · exact .none
    · exact .one k status bytes
  rw [tick_of_cancelWait hst, hdeliver]
  split
  · rw [cancelFinish_evt, cancelFinish_res, failedRes_service_advance_withEvt]
    exact ⟨raws, [.done (failedRes s)], by simp, .failure hraws hst⟩
  · exact ⟨raws, [], by simp, by simpa using .noDone hraws⟩

/-- In every other state a tick is one delivery: nothing, a `RAWDONE`, or a reaction. -/
theorem tick_completions_of_ne {s : State} (hst : s.st ≠ .cancelWait) :
    ∃ raws dones, (tick s).evt = s.evt ++ raws ++ dones ∧ TickCompletions s raws dones (tick s).res := by
  rw [tick_of_ne hst]
  obtain _ | ⟨_ | k, status, bytes⟩ := (service (advance s)).2
  · exact ⟨[], [], by simp, by simpa using .noDone .none⟩
  · rw [deliver_seq]
    obtain ⟨hevt, hres⟩ | ⟨htrl, hfinish⟩ := react_completes_cases status bytes (service (advance s)).1
    · exact ⟨[], [], by simp [hevt], by simpa [hres] using .noDone .none⟩
    · have htrl : s.st = .wTrl := by simpa using htrl
      exact ⟨[], [.done (okRes s)], by simp [hfinish], by simpa [hfinish] using .success htrl⟩
  · exact ⟨[.rawdone k status bytes], [], by simp, by simpa using .noDone (.one k status bytes)⟩

theorem tick_completions (s : State) :
    ∃ raws dones, (tick s).evt = s.evt ++ raws ++ dones ∧ TickCompletions s raws dones (tick s).res := by
  by_cases hst : s.st = .cancelWait
  · exact tick_completions_of_cancelWait hst
  · exact tick_completions_of_ne hst

/-! ### What a step adds to `EVT` -/

/-- A tick; a `RESET`, which empties the trace; or another event, which leaves it. -/
theorem step_evt_cases {s t : State} (hstep : step s = .next t) :
    (∃ l, s.inq = .tick :: l ∧ t = answer .none (tick { s with inq := l })) ∨
      (resetNext s ∧ t.evt = []) ∨
      t.evt = s.evt := by
  cases step_cases hstep with
  | tick l hq => exact .inl ⟨l, hq, rfl⟩
  | reset h l hq hop => exact .inr (.inl ⟨⟨h, by rw [hq]; rfl, hop⟩, rfl⟩)
  | idle | reader | noDelivery | delivery | chunk | refused | nop | exec | enq | cfgw => exact .inr (.inr rfl)

/-- Settles O54: a tick adds what `TickCompletions` says, and no other event but a `RESET` touches the trace. -/
theorem completionsComeFromTicks : Obligations.CompletionsComeFromTicks := by
  intro s t hstep hreset
  obtain ⟨l, hq, rfl⟩ | ⟨hr, _⟩ | hevt := step_evt_cases hstep
  · obtain ⟨raws, dones, hevt, hadds⟩ := tick_completions { s with inq := l }
    refine ⟨raws, dones, hevt, hadds.rawDones.length_le, ?_, hadds.rawDones.eq_rawdone_of_mem, ?_,
      fun hne => absurd (by rw [hq]; rfl) hne⟩
    · obtain rfl | ⟨r, rfl⟩ := hadds.dones_eq <;> simp
    · obtain rfl | ⟨r, rfl⟩ := hadds.dones_eq <;> simp
  · exact absurd hr hreset
  · exact ⟨[], [], by simp [hevt], by simp, by simp, nofun, nofun, fun _ => ⟨rfl, rfl⟩⟩

/-- A failure's `DONE` comes from a tick in `CANCEL_WAIT`, and its record is the one the host reads. -/
theorem step_done_failed {s t : State} {l : List EvtItem} {r : Res} (hstep : step s = .next t) (hevt : t.evt = s.evt ++ l)
    (hr : .done r ∈ l) (hfail : r.ok = false) : s.st = .cancelWait ∧ r = failedRes s ∧ t.res = r := by
  obtain ⟨es, _, rfl⟩ | ⟨_, hempty⟩ | hsame := step_evt_cases hstep
  · obtain ⟨raws, dones, hadded, hadds⟩ := tick_completions { s with inq := es }
    have hl : l = raws ++ dones := by
      rw [List.append_assoc] at hadded
      exact List.append_cancel_left (hevt.symm.trans hadded)
    have hdone : .done r ∈ dones := (List.mem_append.mp (hl ▸ hr)).resolve_left (hadds.rawDones.done_notMem r)
    exact hadds.of_done_failed hdone hfail
  · rw [hevt, List.append_eq_nil_iff] at hempty
    exact absurd hr (hempty.2 ▸ List.not_mem_nil)
  · rw [hevt, List.append_right_eq_self] at hsame
    exact absurd hr (hsame ▸ List.not_mem_nil)

/-- Settles O52: the record is the failure held through the cancel wait, of which `Inv` says that it is one of the twelve. -/
theorem noFailureOutsideTheTwelve : Obligations.NoFailureOutsideTheTwelve := by
  intro s t l r hinv hstep hevt hr hfail
  obtain ⟨hst, rfl, hres⟩ := step_done_failed hstep hevt hr hfail
  exact ⟨hres, hinv.heldFailure hst⟩

end Sys2Proof.Machine
end

section
/-! PROOF. Encoding and decoding (R90 to R112): a frame of either form is read back, each row's code decodes to the row, and
`DECF` accepts the frames and nothing else. -/

namespace Sys2Proof

/-! ### Frames are read back -/

@[simp] theorem encn_extended (p : Bytes) : (dech ((encn p).take 5)).extended = false :=
  decide_eq_false (len_lcs_ne_marker (BitVec.ofNat 8 p.length))

@[simp] theorem encx_extended (p : Bytes) : (dech ((encx p).take 5)).extended = true := rfl

/-- LEN and its LCS, the header of a normal frame. -/
theorem dech_len_lcs (len : Byte) :
    dech [0x00, 0x00, 0xFF, len, csum [len]] = { preOk := true, extended := false, lcsOk := true, declaredLen := some len } := by
  have hsum := byteSum_add_csum [len]
  rw [byteSum_cons, byteSum_nil, Nat.add_zero] at hsum
  simp only [dech_five, decide_eq_false (len_lcs_ne_marker len), hsum, preamble, decide_true, Bool.or_true, Bool.false_eq_true,
    if_false]

/-- LEN_HI, LEN_LO and LCS_EXT of an extended frame. -/
theorem decx_encx {p : Bytes} (h : p.length ≤ 65535) :
    decx (((encx p).drop 5).take 3) = { lcsOk := true, len := BitVec.ofNat 16 p.length } := by
  have hsum := byteSum_add_csum [lenHi p.length, lenLo p.length]
  rw [byteSum_cons, byteSum_cons, byteSum_nil, Nat.add_zero] at hsum
  have hx := decx_three (lenHi p.length) (lenLo p.length) (csum [lenHi p.length, lenLo p.length])
  rw [lenHi_lenLo h, hsum] at hx
  exact hx

/-- Under any limit that it keeps, a payload in the normal form is read back. -/
theorem decfWith_encn {limit : Nat} {p : Bytes} (h : p.length ≤ 255) (hlimit : p.length ≤ limit) :
    decfWith limit (encn p) = .ok p := by
  have hheader : dech ((encn p).take 5) = _ := dech_len_lcs (BitVec.ofNat 8 p.length)
  have hlen : (BitVec.ofNat 8 p.length).toNat = p.length := Nat.mod_eq_of_lt (Nat.lt_succ_of_le h)
  have hdrop : (encn p).drop 5 = p ++ [csum p, 0x00] := rfl
  have h5 : ¬ (encn p).length < 5 := by simp
  simp only [decfWith, h5, hheader, Option.getD_some, hlen, decfTail_eq_drop _ _ 5, hdrop, decfTail_payload hlimit, if_false,
    Bool.true_eq_false, Bool.false_eq_true]

/-- Under any limit that it keeps, a payload in the extended form is read back (U1). -/
theorem decfWith_encx {limit : Nat} {p : Bytes} (h : p.length ≤ 65535) (hlimit : p.length ≤ limit) :
    decfWith limit (encx p) = .ok p := by
  have hpre : (dech ((encx p).take 5)).preOk = true := rfl
  have hlen : (BitVec.ofNat 16 p.length).toNat = p.length := Nat.mod_eq_of_lt (Nat.lt_succ_of_le h)
  have hdrop : (encx p).drop 8 = p ++ [csum p, 0x00] := rfl
  have h5 : ¬ (encx p).length < 5 := by simp
  have h8 : ¬ (encx p).length < 8 := by simp
  simp only [decfWith, h5, h8, hpre, encx_extended, decx_encx h, hlen, decfTail_eq_drop _ _ 8, hdrop, decfTail_payload hlimit,
    if_false, if_true, Bool.true_eq_false]

/-- A data frame is longer than the ACK and the cancel frame. -/
theorem encn_ne_ackFrame (p : Bytes) : encn p ≠ ackFrame := fun h => by
  have hlen := congrArg List.length h
  rw [length_encn] at hlen
  exact absurd hlen (by simp [ackFrame])

theorem encx_ne_ackFrame (p : Bytes) : encx p ≠ ackFrame := fun h => by
  have hlen := congrArg List.length h
  rw [length_encx] at hlen
  exact absurd hlen (by simp [ackFrame])

/-! ### Each code decodes to its row -/

theorem decodeReceived_encn {p : Bytes} (h : p.length ≤ 255) : decodeReceived (encn p) = .ok (.frameNormal .toHost p) := by
  have hisack : isack (encn p) = false := decide_eq_false (encn_ne_ackFrame p)
  simp [decodeReceived, hisack, decf_encn h, dataFrame]

theorem decodeReceived_encx {p : Bytes} (h : p.length ≤ 265) : decodeReceived (encx p) = .ok (.frameExtended .toHost p) := by
  have hisack : isack (encx p) = false := decide_eq_false (encx_ne_ackFrame p)
  have hdecf : decf (encx p) = .ok p := decfWith_encx (h.trans (by decide)) h
  simp [decodeReceived, hisack, hdecf, dataFrame]

theorem decodeChunk_of_received {c : Bytes} {i : Instr} (h : decodeReceived c = .ok i) : decodeChunk c = i := by
  rw [decodeChunk, h]

theorem decodeSent_encn {p : Bytes} (h : p.length ≤ 255) : decodeSent (encn p) = .ok (.frameNormal .toReader p) := by
  have hcancel : encn p ≠ cancelFrame := encn_ne_ackFrame p
  simp [decodeSent, hcancel, decfWith_encn (limit := maxExtLen) h (h.trans (by decide)), dataFrame]

/-- The extended form is canonical above 255 bytes only (R112). -/
theorem decodeSent_encx {p : Bytes} (h256 : 256 ≤ p.length) (h : p.length ≤ 65535) :
    decodeSent (encx p) = .ok (.frameExtended .toReader p) := by
  have hcancel : encx p ≠ cancelFrame := encx_ne_ackFrame p
  have hcanonical : ¬ p.length ≤ extThreshold := Nat.not_le.mpr h256
  simp [decodeSent, hcancel, decfWith_encx (limit := maxExtLen) h h, hcanonical, dataFrame]

theorem decodePiece_header_normal {len lcs : Byte} (h : ¬ (len = 0xFF ∧ lcs = 0xFF)) :
    decodePiece .wHdr 0 [0x00, 0x00, 0xFF, len, lcs] = .ok (.rxHdrNormal len lcs) := by
  rw [decodePiece, if_neg preamble_passes, if_neg h]

theorem decodePiece_header_bad {b0 b1 b2 : Byte} (h : [b0, b1, b2] ≠ preamble) (b3 b4 : Byte) :
    decodePiece .wHdr 0 [b0, b1, b2, b3, b4] = .ok (.rxHdrBad b0 b1 b2 b3 b4) := if_pos h

theorem decodePiece_body {p : Bytes} (h : p.length ≤ 265) :
    decodePiece .wBody (BitVec.ofNat 16 p.length) p = .ok (.rxBody p) :=
  if_pos (Nat.mod_eq_of_lt (by omega)).symm

/-- The port reads back its command with a validator operand of each kind. -/
theorem decodeHost_exec (cmd : Bytes) (v : VArg) :
    decodeHost { HostCmd.withVArg (.bare 0x1) v with cmd := cmd } = .exec cmd v := by
  cases v <;> rfl

theorem decodeHost_enq (n : BitVec 16) (v : VArg) (t : BitVec 32) :
    decodeHost { HostCmd.withVArg (.bare 0x2) v with count := n, value := t } = .hostEnq n v t := by
  cases v <;> rfl

/-- The code of every well-formed instruction but RXB decodes to it. -/
theorem decode_encode {i : Instr} {c : Code} (hwf : i.wf = true) (hcode : encode i = some c) (hrxb : ∀ b, i ≠ .rxb b) :
    decode c = .ok i := by
  cases i with
  | frameNormal d p =>
    have hlen : p.length ≤ 255 := of_decide_eq_true hwf
    cases d <;> cases hcode
    · exact decodeSent_encn hlen
    · exact congrArg Decoded.ok (decodeChunk_of_received (decodeReceived_encn hlen))
  | frameExtended d p =>
    cases d <;> cases hcode
    · obtain ⟨h256, hlen⟩ := Bool.and_eq_true_iff.mp hwf
      exact decodeSent_encx (of_decide_eq_true h256) (of_decide_eq_true hlen)
    · exact congrArg Decoded.ok (decodeChunk_of_received (decodeReceived_encx (of_decide_eq_true hwf)))
  | rxHdrNormal len lcs => cases hcode; exact decodePiece_header_normal (of_decide_eq_true hwf)
  | rxHdrBad b0 b1 b2 b3 b4 => cases hcode; exact decodePiece_header_bad (of_decide_eq_true hwf) b3 b4
  | rxBody p => cases hcode; exact decodePiece_body (of_decide_eq_true hwf)
  | exec cmd v => cases hcode; exact congrArg Decoded.ok (decodeHost_exec cmd v)
  | hostEnq n v t => cases hcode; exact congrArg Decoded.ok (decodeHost_enq n v t)
  | rxb b => exact absurd rfl (hrxb b)
  | frameAck | frameCancel | rxAck | rxHdrExt | rxExt | rxTrl | nop | cfgw | reset | reserved4 | reserved5 | reserved6 | reserved7
  | reserved8 | reserved9 | reservedA | reservedB | reservedC | reservedD | reservedE | tick => cases hcode; rfl
  | svc | val | aclr | enq | sAck | sHdr | sExt | sBody | sTrl | finishOk | cancelBegin | cancelFinish | csum | encn | encx | enc
  | isack | dech | decx | chkt | decf => cases hcode

end Sys2Proof

namespace Sys2Proof.Machine

/-! ### The obligations -/

/-- Settles O8: row by row; a chunk is read as RXB or as the frame it is, and both receive its bytes. -/
theorem decodeOfEncode : Obligations.DecodeOfEncode :=
  ⟨fun _ _ hwf hcode hrxb => decode_encode hwf hcode hrxb, fun b s => ⟨rfl, exec_decodeChunk b s⟩⟩

/-- Settles O4: `decfWith_ok` says that only frames are accepted, the round trips that frames are. -/
theorem decfAcceptsExactlyTheFrames : Obligations.DecfAcceptsExactlyTheFrames := by
  refine fun f s => ⟨decf f, exec_decf f s, fun p => ⟨fun hok => ?_, ?_⟩⟩
  · obtain ⟨hlimit, ⟨_, hlen, hf⟩ | ⟨_, _, hf⟩⟩ := decfWith_ok (limit := maxRespLen) hok
    · exact .inl ⟨hlen, hf⟩
    · exact .inr ⟨hlimit, hf⟩
  · rintro (⟨hlen, rfl⟩ | ⟨hlen, rfl⟩)
    · exact decf_encn hlen
    · exact decfWith_encx (hlen.trans (by decide)) hlen

/-- Settles O9: fetching an event and decoding it is decoding the event; only the environment's steps decode to nothing. -/
theorem stepRunsTheDecodedInstruction : Obligations.StepRunsTheDecodedInstruction := by
  intro s e rest i hq hdecode
  cases e with
  | host h => cases hdecode; simp only [step, fetch, hq]
  | rx c => cases hdecode; simp only [step, fetch, hq]
  | tick => cases hdecode; simp only [step, fetch, hq]
  | reader bs => cases hdecode
  | deliver n => cases hdecode

/-- Settles O10: the words are closed, and the decoder runs on them. -/
theorem sampleCodesDecode : Obligations.SampleCodesDecode := by
  unfold Obligations.SampleCodesDecode
  decide

/-- Settles O12: a word of at most 8 bits is placed as the event of the bare host command with that code. -/
theorem tableHostCodeRunsNext : Obligations.TableHostCodeRunsNext :=
  fun _ w _ => ⟨decodeHost (.bare (BitVec.ofNat 4 w)), rfl, rfl, rfl⟩

end Sys2Proof.Machine
end

section
/-! PROOF. The pending-read queue (R150 to R162): what `SVC` does with the head, what it conserves, the validators, and chunks one
after the other. -/

namespace Sys2Proof.Machine

/-! ### SVC -/

/-- How a read ends (R155): with `ok` and the buffer, with `check-failed`, or with `timeout`. -/
inductive ReadEnds (e : Entry) (s : State) : Status → Bytes → Prop where
  | ok (henough : e.need ≤ s.acc.length) (hpass : evalValidator e.v (e.acc ++ s.acc.take e.need) = true) :
    ReadEnds e s .ok (e.acc ++ s.acc.take e.need)
  | checkFailed (henough : e.need ≤ s.acc.length) (hfail : evalValidator e.v (e.acc ++ s.acc.take e.need) = false) :
    ReadEnds e s .checkFailed []
  | timeout (hshort : s.acc.length < e.need) (hdue : e.deadline ≤ s.now) : ReadEnds e s .timeout []

/-- The state in which the read that ended is gone, with the bytes it took. -/
def withoutHead (e : Entry) (rest : List Entry) (s : State) : State := { s with acc := s.acc.drop e.need, q := rest }

/-- A read that has taken the bytes `acc` and wants more. -/
def Entry.fed (acc : Bytes) (e : Entry) : Entry := { e with need := e.need - acc.length, acc := e.acc ++ acc }

/-- The state in which the head keeps waiting, with the bytes there were. -/
def withWaitingHead (e : Entry) (rest : List Entry) (s : State) : State := { s with acc := [], q := e.fed s.acc :: rest }

/-- What a waiting read holds and wants is what it was enqueued with (R25). -/
theorem Entry.requested_fed {acc : Bytes} {e : Entry} (h : acc.length ≤ e.need) : (e.fed acc).requested = e.requested := by
  simp only [Entry.requested, Entry.fed, List.length_append]
  omega

theorem service_of_empty {s : State} (hq : s.q = []) : service s = (s, none) := by
  rw [service, hq]

section
variable {s : State} {e : Entry} {rest : List Entry} (hq : s.q = e :: rest)
include hq

theorem service_of_satisfied (henough : e.need ≤ s.acc.length) :
    service s = (withoutHead e rest s, some (satisfied e (e.acc ++ s.acc.take e.need))) := by
  simp [service, hq, withoutHead, henough]

theorem service_of_ends {status : Status} {bytes : Bytes} (hends : ReadEnds e s status bytes) :
    service s = (withoutHead e rest s, some { cid := e.cid, status := status, bytes := bytes }) := by
  cases hends with
  | ok henough hpass => simp [service_of_satisfied hq henough, satisfied, hpass]
  | checkFailed henough hfail => simp [service_of_satisfied hq henough, satisfied, hfail]
  | timeout hshort hdue =>
    have hmissing : e.need - s.acc.length ≠ 0 := Nat.sub_ne_zero_of_lt hshort
    simp [service, hq, withoutHead, hmissing, hdue, hshort.le]

theorem service_of_waits (hshort : s.acc.length < e.need) (hearly : s.now < e.deadline) :
    service s = (withWaitingHead e rest s, none) := by
  have hk : min e.need s.acc.length = s.acc.length := Nat.min_eq_right hshort.le
  have hmissing : e.need - s.acc.length ≠ 0 := Nat.sub_ne_zero_of_lt hshort
  simp [service, hq, withWaitingHead, Entry.fed, hk, hmissing, Nat.not_le.mpr hearly]
end

/-- The read at the head ends, or keeps waiting. -/
theorem readEnds_or_waits (e : Entry) (s : State) :
    (∃ status bytes, ReadEnds e s status bytes) ∨ (s.acc.length < e.need ∧ s.now < e.deadline) := by
  rcases Nat.lt_or_ge s.acc.length e.need with hshort | henough
  · rcases Nat.lt_or_ge s.now e.deadline with hearly | hdue
    · exact .inr ⟨hshort, hearly⟩
    · exact .inl ⟨_, _, .timeout hshort hdue⟩
  · cases h : evalValidator e.v (e.acc ++ s.acc.take e.need) with
    | true => exact .inl ⟨_, _, .ok henough h⟩
    | false => exact .inl ⟨_, _, .checkFailed henough h⟩

/-- What `SVC` does and returns (R155): nothing on an empty queue; the head waits; the head's read ends. -/
inductive ServiceCase (s : State) : Prop where
  | empty (hq : s.q = []) (h : service s = (s, none))
  | waits (e : Entry) (rest : List Entry) (hq : s.q = e :: rest) (hshort : s.acc.length < e.need) (hearly : s.now < e.deadline)
      (h : service s = (withWaitingHead e rest s, none))
  | ends (e : Entry) (rest : List Entry) (status : Status) (bytes : Bytes) (hq : s.q = e :: rest)
      (hends : ReadEnds e s status bytes)
      (h : service s = (withoutHead e rest s, some { cid := e.cid, status := status, bytes := bytes }))

theorem serviceCase (s : State) : ServiceCase s := by
  cases hq : s.q with
  | nil => exact .empty hq (service_of_empty hq)
  | cons e rest =>
    obtain ⟨status, bytes, hends⟩ | ⟨hshort, hearly⟩ := readEnds_or_waits e s
    · exact .ends e rest status bytes hq hends (service_of_ends hq hends)
    · exact .waits e rest hq hshort hearly (service_of_waits hq hshort hearly)

/-- A read that ended with `ok` has the count it asked for, and its validator accepts it. -/
theorem ReadEnds.of_ok {e : Entry} {s : State} {bytes : Bytes} (h : ReadEnds e s .ok bytes) :
    bytes.length = e.requested ∧ evalValidator e.v bytes = true ∧ bytes ++ s.acc.drop e.need = e.acc ++ s.acc := by
  cases h with
  | ok henough hpass => exact ⟨by simp [Entry.requested, henough], hpass, by simp⟩

/-- A read that failed delivers nothing. -/
theorem ReadEnds.of_ne_ok {e : Entry} {s : State} {status : Status} {bytes : Bytes} (h : ReadEnds e s status bytes)
    (hstatus : status ≠ .ok) : bytes = [] := by
  cases h with
  | ok _ _ => exact absurd rfl hstatus
  | checkFailed _ _ => rfl
  | timeout _ _ => rfl

@[simp] theorem exec_svc (s : State) :
    exec .svc s = .next { (service s).1 with rsp := .completion (service s).2 } := rfl

/-- Settles O28: the five outcomes are those of `serviceCase`. -/
theorem serviceOfTheHead : Obligations.ServiceOfTheHead := by
  intro s e rest
  have hshortened (h : s.acc.length < e.need) : s.acc.drop e.need = [] := List.drop_eq_nil_of_le h.le
  refine ⟨fun hq => ?_, fun hq henough hpass => ?_, fun hq henough hfail => ?_, fun hq hshort hdue => ?_,
    fun hq hshort hearly => ?_⟩ <;> rw [exec_svc]
  · rw [service_of_empty hq]
  · rw [service_of_ends hq (.ok henough hpass)]; rfl
  · rw [service_of_ends hq (.checkFailed henough hfail)]; rfl
  · rw [service_of_ends hq (.timeout hshort hdue), withoutHead, hshortened hshort]
  · rw [service_of_waits hq hshort hearly]; rfl

/-- Settles O29: a head that waits takes all of `ACC`; a read that ends takes what it needs, or all there is. -/
theorem serviceConservesBytes : Obligations.ServiceConservesBytes := by
  intro s e rest hq
  refine ⟨_, _, exec_svc s, rfl, ?_⟩
  obtain ⟨status, bytes, hends⟩ | ⟨hshort, hearly⟩ := readEnds_or_waits e s
  · rw [service_of_ends hq hends]
    by_cases hstatus : status = .ok
    · subst hstatus
      obtain ⟨hlen, _, hbytes⟩ := hends.of_ok
      exact .inr (.inl ⟨bytes, rfl, rfl, hbytes, hlen⟩)
    · obtain rfl := hends.of_ne_ok hstatus
      refine .inr (.inr ⟨status, e.acc ++ s.acc.take e.need, rfl, hstatus, rfl, by simp [withoutHead], ?_⟩)
      simp [Entry.requested]
  · rw [service_of_waits hq hshort hearly]
    exact .inl ⟨rfl, _, rfl, List.append_nil _, Entry.requested_fed hshort.le⟩

/-! ### Validators -/

/-- The predicate that holds of the one buffer `a`. -/
def exactly (a : Bytes) : Pred := .both (.slice 0 a) (.lengthIs a.length)

theorem evalPred_exactly (a b : Bytes) : evalPred (exactly a) b = true ↔ b = a := by
  simp only [exactly, evalPred, List.drop_zero, Bool.and_eq_true, decide_eq_true_eq]
  constructor
  · rintro ⟨htake, hlen⟩
    rwa [← hlen, List.take_length] at htake
  · rintro rfl
    simp

/-- Every finite set of buffers is what some predicate term holds of. -/
theorem exists_pred_of_finite {S : Set Bytes} (hS : S.Finite) : ∃ h : Pred, ∀ b, evalPred h b = true ↔ b ∈ S := by
  induction S, hS using Set.Finite.induction_on with
  | empty => exact ⟨.neg .always, fun b => by simp [evalPred]⟩
  | @insert a S _ _ ih =>
    obtain ⟨h, hh⟩ := ih
    exact ⟨.either (exactly a) h, fun b => by simp [evalPred, evalPred_exactly, hh]⟩

/-- There are finitely many buffers of at most `k` bytes. -/
theorem finite_buffers (k : Nat) : {b : Bytes | b.length ≤ k}.Finite := List.finite_length_le Byte k

@[simp] theorem exec_val (v : Validator) (b : Bytes) (s : State) :
    exec (.val v b) s = .next { s with rsp := .verdict (evalValidator v b) } := rfl

/-- Settles O31: the buffers of at most `k` bytes that `f` accepts are finitely many. -/
theorem everyPredicateIsHeld : Obligations.EveryPredicateIsHeld := by
  intro f k
  obtain ⟨h, hh⟩ := exists_pred_of_finite ((finite_buffers k).inter_of_left {b | f b = true})
  refine ⟨h, fun b s hb => ?_⟩
  have hagree : evalPred h b = f b := by
    rw [Bool.eq_iff_iff, hh]
    exact and_iff_right hb
  rw [exec_val, evalValidator, hagree]

theorem evalPred_lengthByte (i k : Nat) (b : Bytes) :
    evalPred (.lengthByte i k) b = true ↔ ∃ x, b[i]? = some x ∧ b.length = x.toNat + k := by
  cases h : b[i]? <;> simp [evalPred, h]

/-- Settles O30: each form is a clause of `evalValidator` or `evalPred`; the length byte has a case of its own. -/
theorem validatorForms : Obligations.ValidatorForms :=
  fun _ b i k _ _ _ _ => ⟨rfl, rfl, rfl, rfl, rfl, rfl, rfl, evalPred_lengthByte i k b, rfl, rfl, rfl, rfl⟩

/-! ### The accumulation buffer -/

/-- Settles O32: the operation is `clearAcc` and its answer. -/
theorem aclrEmptiesTheBuffer : Obligations.AclrEmptiesTheBuffer := fun _ => rfl

theorem receive_of_unbounded {s : State} (h : s.cfg.accCap = none) (c : Bytes) : receive c s = { s with acc := s.acc ++ c } :=
  receive_of_le_room (accRoom_of_unbounded h c.length).ge

theorem receive_of_cap {s : State} {cap : Nat} (h : s.cfg.accCap = some cap) (c : Bytes) :
    receive c s =
      { s with
        acc := s.acc ++ c.take (cap - s.acc.length)
        accOvf := s.accOvf || decide (cap - s.acc.length < c.length) } := by
  rw [receive, accRoom_of_cap h]

/-- What is kept of two chunks one after the other is what is kept of them as one (R61). -/
theorem receive_append (c1 c2 : Bytes) (s : State) : receive (c1 ++ c2) s = receive c2 (receive c1 s) := by
  cases hcap : s.cfg.accCap with
  | none =>
    rw [receive_of_unbounded (s := receive c1 s) hcap, receive_of_unbounded hcap, receive_of_unbounded hcap, List.append_assoc]
  | some cap =>
    have hroom : cap - (s.acc ++ c1.take (cap - s.acc.length)).length = cap - s.acc.length - c1.length := by
      rw [List.length_append, List.length_take]; omega
    have hover : cap - s.acc.length < (c1 ++ c2).length ↔
        cap - s.acc.length < c1.length ∨ cap - s.acc.length - c1.length < c2.length := by
      rw [List.length_append]; omega
    rw [receive_of_cap (s := receive c1 s) hcap, receive_of_cap hcap, receive_of_cap hcap, hroom, List.take_append,
      decide_eq_decide.mpr hover, Bool.decide_or, List.append_assoc, Bool.or_assoc]

theorem receive_answer (c : Bytes) (r : Rsp) (s : State) : receive c (answer r s) = answer r (receive c s) := rfl

theorem receive_nil (s : State) : receive [] s = s := by simp [receive]

/-- Settles O24: the answers are the same, and the buffer by `receive_append`. -/
theorem chunkBoundariesCarryNoMeaning : Obligations.ChunkBoundariesCarryNoMeaning := by
  intro c1 c2 s
  refine ⟨_, _, exec_rxb c1 s, exec_rxb c2 _, ?_, ?_⟩
  · rw [exec_rxb, receive_append, receive_answer]; rfl
  · rw [exec_rxb, receive_nil]; rfl

end Sys2Proof.Machine
end

section
/-! PROOF. The tick (R200): time, one service, its delivery, and the end of a cancel wait; and the operations that run a part of it
on their own. -/

namespace Sys2Proof.Machine

/-! ### One service and its delivery -/

/-- The cancel wait is over once the tick has advanced `NOW` (R200). -/
def CancelDue (s : State) : Prop := s.st = .cancelWait ∧ s.cdl ≤ timeValue s.cfg (s.now + s.cfg.tickMs)

/-- The tick before it looks at the cancel wait: `NOW`, one `SVC`, its delivery (R200). -/
def served (s : State) : State := deliver (service (advance s)).2 (service (advance s)).1

theorem tick_of_cancelDue {s : State} (h : CancelDue s) : tick s = cancelFinish (served s) := by
  rw [tick_of_cancelWait h.1, if_pos h.2, served]

theorem tick_of_not_cancelDue {s : State} (h : ¬ CancelDue s) : tick s = served s := by
  by_cases hst : s.st = .cancelWait
  · rw [tick_of_cancelWait hst, if_neg fun hdue => h ⟨hst, hdue⟩, served]
  · rw [tick_of_ne hst, served]

theorem served_of_service {s s1 : State} {c : Option Completion} (h : service (advance s) = (s1, c)) :
    served s = deliver c s1 := by
  rw [served, h]

/-- What one service and its delivery do (R155, R157): nothing to serve; the head waits; a raw read ends; the sequencer's read
ends, and its stage reacts. -/
inductive ServedCase (s : State) : Prop where
  | empty (hq : s.q = []) (h : served s = advance s)
  | waits (e : Entry) (rest : List Entry) (hq : s.q = e :: rest) (hshort : s.acc.length < e.need)
      (hearly : timeValue s.cfg (s.now + s.cfg.tickMs) < e.deadline) (h : served s = withWaitingHead e rest (advance s))
  | raw (e : Entry) (rest : List Entry) (k : BitVec 16) (status : Status) (bytes : Bytes) (hq : s.q = e :: rest)
      (hcid : e.cid = .raw k) (hends : ReadEnds e (advance s) status bytes)
      (h : served s = emitEvt (.rawdone k status bytes) (withoutHead e rest (advance s)))
  | seq (e : Entry) (rest : List Entry) (status : Status) (bytes : Bytes) (hq : s.q = e :: rest)
      (hcid : e.cid = .seq) (hends : ReadEnds e (advance s) status bytes)
      (h : served s = react status bytes (withoutHead e rest (advance s)))

theorem served_of_seq {s : State} {e : Entry} {rest : List Entry} {status : Status} {bytes : Bytes} (hq : s.q = e :: rest)
    (hcid : e.cid = .seq) (hends : ReadEnds e (advance s) status bytes) :
    served s = react status bytes (withoutHead e rest (advance s)) := by
  rw [served_of_service (service_of_ends (s := advance s) hq hends), hcid, deliver_seq]

theorem servedCase (s : State) : ServedCase s := by
  cases serviceCase (advance s) with
  | empty hq h => exact .empty hq (served_of_service h)
  | waits e rest hq hshort hearly h => exact .waits e rest hq hshort hearly (served_of_service h)
  | ends e rest status bytes hq hends h =>
    cases hcid : e.cid with
    | seq => exact .seq e rest status bytes hq hcid hends (served_of_seq hq hcid hends)
    | raw k => exact .raw e rest k status bytes hq hcid hends (by rw [served_of_service h, hcid, deliver_raw])

/-- A tick outside `CANCEL_WAIT` whose `SVC` ends the sequencer's read is the reaction of the stage. -/
theorem tick_of_seq_ends {s : State} {e : Entry} {rest : List Entry} {status : Status} {bytes : Bytes}
    (hst : s.st ≠ .cancelWait) (hq : s.q = e :: rest) (hcid : e.cid = .seq) (hends : ReadEnds e (advance s) status bytes) :
    tick s = react status bytes (withoutHead e rest (advance s)) := by
  rw [tick_of_not_cancelDue fun h => hst h.1, served_of_seq hq hcid hends]

/-! ### The reaction of a stage -/

section
variable {s : State} (status : Status) (bytes : Bytes)

theorem react_of_wAck (h : s.st = .wAck) : react status bytes s = reactAck status bytes s := by rw [react, h]
theorem react_of_wHdr (h : s.st = .wHdr) : react status bytes s = reactHdr status bytes s := by rw [react, h]
theorem react_of_wExt (h : s.st = .wExt) : react status bytes s = reactExt status bytes s := by rw [react, h]
theorem react_of_wBody (h : s.st = .wBody) : react status bytes s = reactBody status bytes s := by rw [react, h]
theorem react_of_wTrl (h : s.st = .wTrl) : react status bytes s = reactTrl status bytes s := by rw [react, h]
end

@[simp] theorem exec_tick (s : State) : exec .tick s = .next (answer .none (tick s)) := rfl

theorem exec_cancelFinish {s : State} (hst : s.st = .cancelWait) (hdue : s.cdl ≤ s.now) :
    exec .cancelFinish s = .next (answer .none (cancelFinish s)) :=
  congrArg (fun t => Host.Outcome.next (answer .none t)) ((if_pos hdue).trans (if_pos hst))

theorem exec_cancelBegin {s : State} (hst : waiting s.st = true) (tag : Tag) (cause : Status) :
    exec (.cancelBegin tag cause) s = .next (answer .none (cancelBegin tag cause s)) :=
  congrArg (fun t => Host.Outcome.next (answer .none t)) (if_pos hst)

/-- Settles O44: the tick is `served`, with the end of the cancel wait behind it when it is due. -/
theorem tickRunsOneService : Obligations.TickRunsOneService := by
  intro s now svc s1 due
  have hst : s1.st = s.st := service_st (advance s)
  have hserved {c : Option Completion} (hc : svc.2 = c) : served s = deliver c s1 := by rw [← hc]; rfl
  have hquiet (hdue : ¬ due) : exec .tick s = .next (answer .none (served s)) := by
    rw [exec_tick, tick_of_not_cancelDue hdue]
  have hends {s2 : State} (h2 : served s = s2) (h2st : s2.st = s.st) (h2cdl : s2.cdl = s.cdl) (h2now : s2.now = now) (hdue : due) :
      exec .tick s = exec .cancelFinish s2 := by
    have hover : s2.cdl ≤ s2.now := by rw [h2cdl, h2now]; exact hdue.2
    rw [exec_cancelFinish (h2st.trans hdue.1) hover, exec_tick, tick_of_cancelDue hdue, h2]
  have hcdl : s1.cdl = s.cdl := service_cdl (advance s)
  have hnow : s1.now = now := service_now (advance s)
  refine ⟨rfl, ⟨_, exec_tick s, tick_now s⟩, fun hc hdue => ?_, fun hc hdue => hends (hserved hc) hst hcdl hnow hdue,
    fun k status bytes hc hdue => ?_, fun k status bytes hc hdue => hends (hserved hc) hst hcdl hnow hdue,
    fun status bytes hc => ?_⟩
  · rw [hquiet hdue, hserved hc]; rfl
  · rw [hquiet hdue, hserved hc]; rfl
  · have hreact (hne : s.st ≠ .cancelWait) : exec .tick s = .next (answer .none (react status bytes s1)) := by
      rw [hquiet fun hdue => hne hdue.1, hserved hc, deliver_seq]
    refine ⟨fun h => ?_, fun h hlen => ?_, fun h hlen => ?_, fun h => ?_, fun h => ?_⟩ <;>
      rw [hreact (by rw [h]; exact nofun)]
    · rw [react_of_wAck _ _ (hst.trans h), exec_sAck (hst.trans h)]
    · rw [react_of_wHdr _ _ (hst.trans h), exec_sHdr (hst.trans h) hlen]
    · rw [react_of_wExt _ _ (hst.trans h), exec_sExt (hst.trans h) hlen]
    · rw [react_of_wBody _ _ (hst.trans h), exec_sBody (hst.trans h)]
    · rw [react_of_wTrl _ _ (hst.trans h), exec_sTrl (hst.trans h)]

/-! ### The receive-stage rows -/

section
variable {s : State}

theorem exec_rxAck (h : s.st = .wAck) : exec .rxAck s = .next (answer .none (reactAck .ok ackFrame s)) := next_inStage h _

theorem exec_rxHdrExt (h : s.st = .wHdr) :
    exec .rxHdrExt s = .next (answer .none (reactHdr .ok [0x00, 0x00, 0xFF, 0xFF, 0xFF] s)) := next_inStage h _

theorem exec_rxHdrNormal (h : s.st = .wHdr) (len lcs : Byte) :
    exec (.rxHdrNormal len lcs) s = .next (answer .none (reactHdr .ok [0x00, 0x00, 0xFF, len, lcs] s)) := next_inStage h _

theorem evalValidator_vPfx (b0 b1 b2 : Byte) (bytes : Bytes) :
    evalValidator vPfx (b0 :: b1 :: b2 :: bytes) = decide ([b0, b1, b2] = preamble) := rfl

/-- Without the preamble the header read's validator fails, and the reaction gets no bytes (R103). -/
theorem exec_rxHdrBad (h : s.st = .wHdr) {b0 b1 b2 : Byte} (hpre : [b0, b1, b2] ≠ preamble) (b3 b4 : Byte) :
    exec (.rxHdrBad b0 b1 b2 b3 b4) s = .next (answer .none (reactHdr .checkFailed [] s)) := by
  have hsat : satisfied { need := 0, acc := [], v := vPfx, deadline := 0, cid := .seq } [b0, b1, b2, b3, b4] =
      { cid := .seq, status := .checkFailed, bytes := [] } := by
    rw [satisfied, evalValidator_vPfx, decide_eq_false hpre]; rfl
  refine (next_inStage h _).trans ?_
  rw [hsat]

theorem exec_rxExt (h : s.st = .wExt) (hi lo lcs : Byte) :
    exec (.rxExt hi lo lcs) s = .next (answer .none (reactExt .ok [hi, lo, lcs] s)) := next_inStage h _

theorem exec_rxBody (h : s.st = .wBody) {p : Bytes} (hlen : p.length = s.rlen.toNat) :
    exec (.rxBody p) s = .next (answer .none (reactBody .ok p s)) :=
  congrArg (fun t => Host.Outcome.next (answer .none t)) ((if_pos hlen).trans (if_pos h))

theorem exec_rxTrl (h : s.st = .wTrl) (dcs : Byte) :
    exec (.rxTrl dcs) s = .next (answer .none (reactTrl .ok [dcs, 0x00] s)) := next_inStage h _
end

/-- A header that is read is captured, whatever the reaction does next. -/
theorem reactHdr_ok_hdr (bytes : Bytes) (s : State) : (reactHdr .ok bytes s).hdr = bytes := by
  simp only [reactHdr, headerSeen]
  split
  · rfl
  · split <;> rfl

theorem reactExt_ok_extb (bytes : Bytes) (s : State) : (reactExt .ok bytes s).extb = bytes := by
  simp only [reactExt, extSeen]
  split
  · rfl
  · split <;> rfl

/-- Settles O39: row and reaction answer the same state; what the reactions capture is said of them. -/
theorem receiveRowsAreTheirReactions : Obligations.ReceiveRowsAreTheirReactions := by
  intro s b0 b1 b2 b3 b4 p
  refine ⟨fun h => ⟨_, exec_rxAck h, exec_sAck h .ok _, rfl⟩,
    fun h => ⟨_, exec_rxHdrExt h, exec_sHdr h fun _ => rfl, rfl, rfl⟩,
    fun h => ⟨_, exec_rxHdrNormal h b3 b4, exec_sHdr h fun _ => rfl, reactHdr_ok_hdr _ s⟩,
    fun h hpre => ⟨_, exec_rxHdrBad h hpre b3 b4, exec_sHdr h nofun, rfl, rfl, rfl⟩,
    fun h => ⟨_, exec_rxExt h b0 b1 b2, exec_sExt h fun _ => rfl, reactExt_ok_extb _ s⟩,
    fun h hlen => ⟨_, exec_rxBody h hlen, exec_sBody h .ok p, rfl, rfl⟩,
    fun h => ⟨_, exec_rxTrl h b0, exec_sTrl h .ok _⟩⟩

end Sys2Proof.Machine
end

section
/-! PROOF. The receive-stage rows in a tick (R101 to R103, R200): the row the piece decodes to is the reaction the tick runs. -/

namespace Sys2Proof.Machine

/-- What a piece of a stage must be to decode to a row (R101 to R103). -/
inductive PieceRow (rlen : BitVec 16) : SeqState → Bytes → Instr → Prop where
  | ack : PieceRow rlen .wAck ackFrame .rxAck
  | headerBad {b0 b1 b2 : Byte} (b3 b4 : Byte) (hpre : [b0, b1, b2] ≠ preamble) :
    PieceRow rlen .wHdr [b0, b1, b2, b3, b4] (.rxHdrBad b0 b1 b2 b3 b4)
  | headerExt : PieceRow rlen .wHdr [0x00, 0x00, 0xFF, 0xFF, 0xFF] .rxHdrExt
  | headerNormal (len lcs : Byte) : PieceRow rlen .wHdr [0x00, 0x00, 0xFF, len, lcs] (.rxHdrNormal len lcs)
  | ext (hi lo lcs : Byte) : PieceRow rlen .wExt [hi, lo, lcs] (.rxExt hi lo lcs)
  | body {p : Bytes} (hlen : p.length = rlen.toNat) : PieceRow rlen .wBody p (.rxBody p)
  | trailer (dcs : Byte) : PieceRow rlen .wTrl [dcs, 0x00] (.rxTrl dcs)

theorem pieceRow_of_decodePiece {st : SeqState} {rlen : BitVec 16} {bytes : Bytes} {i : Instr}
    (h : decodePiece st rlen bytes = .ok i) : PieceRow rlen st bytes i := by
  unfold decodePiece at h
  split at h
  case h_1 =>
    split at h <;> cases h
    next hack =>
      obtain rfl : bytes = ackFrame := of_decide_eq_true hack
      exact .ack
  case h_2 =>
    split at h
    · next b0 b1 b2 b3 b4 =>
      split at h
      · next hpre => cases h; exact .headerBad b3 b4 hpre
      · next hpre =>
        obtain ⟨rfl, rfl, rfl⟩ : b0 = 0x00 ∧ b1 = 0x00 ∧ b2 = 0xFF := by simpa [preamble] using hpre
        split at h
        · next hmarker => obtain ⟨rfl, rfl⟩ := hmarker; cases h; exact .headerExt
        · cases h; exact .headerNormal b3 b4
    · cases h
  case h_3 =>
    split at h <;> cases h
    exact .ext _ _ _
  case h_4 =>
    split at h <;> cases h
    next hlen => exact .body hlen
  case h_5 =>
    split at h
    · split at h <;> cases h
      next hpost => subst hpost; exact .trailer _
    · cases h
  case h_6 => cases h
  case h_7 => cases h

section
variable {s : State} {e : Entry} {rest : List Entry} (hq : s.q = e :: rest) (hcid : e.cid = .seq) (hacc : e.acc = [])
  (hneed : e.need ≤ s.acc.length) (hst : s.st ≠ .cancelWait)
include hq hcid hacc hneed hst

/-- A tick in which `ACC` holds the piece that the sequencer waits for (R155, R200). -/
theorem tick_of_piece_accepted {piece : Bytes} (hpiece : s.acc.take e.need = piece) (hpass : evalValidator e.v piece = true) :
    tick s = react .ok piece (withoutHead e rest (advance s)) := by
  have hbuffer : e.acc ++ s.acc.take e.need = piece := by rw [hacc, List.nil_append, hpiece]
  have hends : ReadEnds e (advance s) .ok (e.acc ++ s.acc.take e.need) := .ok hneed (by rw [← hpass, ← hbuffer]; rfl)
  rw [tick_of_seq_ends hst hq hcid hends, hbuffer]

theorem tick_of_piece_refused {piece : Bytes} (hpiece : s.acc.take e.need = piece) (hfail : evalValidator e.v piece = false) :
    tick s = react .checkFailed [] (withoutHead e rest (advance s)) := by
  have hbuffer : e.acc ++ s.acc.take e.need = piece := by rw [hacc, List.nil_append, hpiece]
  exact tick_of_seq_ends hst hq hcid (.checkFailed hneed (by rw [← hfail, ← hbuffer]; rfl))
end

/-- Settles O11: the piece passes the validator of its stage, but for a header without the preamble. -/
theorem pieceRowsAreWhatATickRuns : Obligations.PieceRowsAreWhatATickRuns := by
  intro s e rest i hq hcid hacc hneed hreads hdecode
  let u : State := withoutHead e rest (advance s)
  change exec .tick s = exec i u
  have hrow := pieceRow_of_decodePiece hdecode
  generalize hpiece : s.acc.take e.need = piece at hrow
  have hne : s.st ≠ .cancelWait := fun h => by rw [h] at hrow; cases hrow
  have haccepted := tick_of_piece_accepted hq hcid hacc hneed hne hpiece
  have hrefused := tick_of_piece_refused hq hcid hacc hneed hne hpiece
  have hvalidator {n : Nat} {v : Validator} (h : [(n, v)] = [(e.need, e.v)]) : e.v = v :=
    (congrArg Prod.snd (List.singleton_inj.mp h)).symm
  have hust : u.st = s.st := rfl
  have hrlen : u.rlen = s.rlen := rfl
  generalize s.st = st at hrow hreads hust
  rw [exec_tick]
  cases hrow with
  | ack => rw [haccepted (by rw [hvalidator hreads]; rfl), react_of_wAck _ _ hust, exec_rxAck hust]
  | headerBad b3 b4 hpre =>
    rw [hrefused (by rw [hvalidator hreads, evalValidator_vPfx, decide_eq_false hpre]), react_of_wHdr _ _ hust,
      exec_rxHdrBad hust hpre]
  | headerExt => rw [haccepted (by rw [hvalidator hreads]; rfl), react_of_wHdr _ _ hust, exec_rxHdrExt hust]
  | headerNormal len lcs =>
    rw [haccepted (by rw [hvalidator hreads]; rfl), react_of_wHdr _ _ hust, exec_rxHdrNormal hust]
  | ext hi lo lcs => rw [haccepted (by rw [hvalidator hreads]; rfl), react_of_wExt _ _ hust, exec_rxExt hust]
  | body hlen =>
    rw [haccepted (by rw [hvalidator hreads]; rfl), react_of_wBody _ _ hust, exec_rxBody hust (hrlen ▸ hlen)]
  | trailer dcs => rw [haccepted (by rw [hvalidator hreads]; rfl), react_of_wTrl _ _ hust, exec_rxTrl hust]

end Sys2Proof.Machine
end

section
/-! PROOF. Single operations: outside the codec's domain (U7), the host port (R106, R182, R234), frames and the environment
(R91 to R95, R298), and the cancel sub-procedure (R196, R197). -/

namespace Sys2Proof.Machine

/-! ### Outside the codec's domain -/

theorem chkt_of_length_ne {t : Bytes} (h : t.length ≠ 2) (body : Bytes) : chkt body t = false :=
  decide_eq_false fun heq => h (congrArg List.length heq)

/-- Settles O7: each refusal is the test of the operation's domain; a trailer of another length equals no two bytes. -/
theorem outsideTheCodecDomain : Obligations.OutsideTheCodecDomain := by
  refine fun s d b => ⟨fun h => ⟨if_neg h, if_pos ⟨rfl, h⟩⟩, fun h => ⟨if_neg h, if_pos ⟨rfl, h⟩⟩, fun h => ?_,
    fun h => ?_, fun body h => ?_⟩
  · have hdomain : ¬ b.length ≤ 255 := Nat.not_le.mpr h
    exact ⟨if_neg hdomain, if_neg hdomain⟩
  · have hdomain : ¬ b.length ≤ 65535 := Nat.not_le.mpr h
    exact ⟨if_neg hdomain, if_neg hdomain, if_neg hdomain⟩
  · rw [exec_chkt, chkt_of_length_ne h]

/-! ### The host port -/

theorem loadValidator_of_stands {cap : Nat} {va : VArg} {v : Validator} (hload : Loadable cap va) (hv : Stands va v) :
    loadValidator cap va = some v := by
  obtain ⟨rfl, rfl⟩ | ⟨p, rfl, rfl⟩ | ⟨f, rfl, rfl⟩ := hv
  · rfl
  · exact if_pos (loadable_exact_iff.mp hload)
  · rfl

/-- Settles O14: none of R236's four tests applies, and what is left is `startTxn`. -/
theorem execStartsATransaction : Obligations.ExecStartsATransaction := by
  intro cmd va v s hload hv hst hcmd hroom
  rw [exec_exec_of_loaded (loadValidator_of_stands hload hv), if_neg (not_not.mpr hst), if_neg (Nat.not_lt.mpr hcmd),
    if_neg (Nat.not_le.mpr hroom)]
  rfl

/-- Settles O15: neither of R236's two tests applies. -/
theorem enqGivesATicket : Obligations.EnqGivesATicket := by
  intro n va v t s hload hv hroom
  rw [exec_hostEnq_of_loaded (loadValidator_of_stands hload hv), if_neg (Nat.not_le.mpr hroom)]
  rfl

@[simp] theorem exec_cfgw (value : BitVec 32) (s : State) :
    exec (.cfgw value) s = .next { s with rsp := .accepted, timeoutMs := value } := rfl

/-- Settles O16: the operation is the write and its answer. -/
theorem cfgwWritesTheTimeoutOnly : Obligations.CfgwWritesTheTimeoutOnly := exec_cfgw

/-- Settles O18: `exec_reset` names the four fields that are kept. -/
theorem resetKeepsWhatIsNotTheBlocks : Obligations.ResetKeepsWhatIsNotTheBlocks := fun s => ⟨_, exec_reset s, rfl⟩

/-! ### What the host reads -/

theorem hostView_of_not_valid {s : State} (h : s.res.valid = false) :
    (hostView s).valid = false ∧ (hostView s).ok = false ∧ (hostView s).tag = 0 ∧ (hostView s).cause = 0 ∧
      (hostView s).stage = 0 ∧ (hostView s).blen = 0 ∧ (hostView s).body = [] := by
  simp [hostView, h, Res.zero, tagCode, statusCode, stCode]

theorem hostView_of_valid {s : State} (h : s.res.valid = true) :
    (hostView s).valid = true ∧ (hostView s).ok = s.res.ok ∧ (hostView s).tag = tagCode s.res.tag ∧
      (hostView s).cause = statusCode s.res.cause ∧ (hostView s).stage = stCode s.res.stage ∧
      (hostView s).blen = s.res.blen ∧ (hostView s).body = s.res.body.take s.res.blen.toNat := by
  simp [hostView, h]

/-- Settles O21: the flags are tests; after CANCEL.FINISH the record is valid and its length 0, so no byte of it is read. -/
theorem hostReadsOfTheResult : Obligations.HostReadsOfTheResult :=
  fun _ => ⟨decide_eq_true_iff, decide_eq_true_iff, decide_eq_true_iff, rfl, rfl, hostView_of_not_valid, hostView_of_valid,
    fun hst hdue => ⟨_, exec_cancelFinish hst hdue, rfl, rfl, rfl, rfl, rfl, rfl, rfl⟩⟩

/-- Settles O22: the tables are read off the definitions, and a code is shared by no two names. -/
theorem codesOfTheTables : Obligations.CodesOfTheTables := by
  refine ⟨rfl, rfl, rfl, fun a b => ?_, fun a b => ?_, fun a b => ?_⟩
  · cases a <;> cases b <;> decide
  · cases a <;> cases b <;> decide
  · cases a <;> cases b <;> decide

/-! ### Frames and the environment -/

theorem exec_frameNormal {p : Bytes} (h : p.length ≤ 255) (d : Dir) (s : State) :
    exec (.frameNormal d p) s = crossBoundary d (encn p) s := if_pos h

theorem exec_frameExtended {p : Bytes} (h : p.length ≤ 65535) (d : Dir) (s : State) :
    exec (.frameExtended d p) s = crossBoundary d (encx p) s := if_pos h

/-- Settles O25: toward the reader a frame that crosses the boundary is `emitTx` of its bytes. -/
theorem framesTowardTheReader : Obligations.FramesTowardTheReader :=
  fun _ s => ⟨fun h => exec_frameNormal h .toReader s, fun h => exec_frameExtended h .toReader s, rfl⟩

/-- Settles O26: toward the host a frame that crosses the boundary is received, which with unbounded room appends it. -/
theorem framesFromTheReader : Obligations.FramesFromTheReader := by
  refine fun p s => ⟨fun h => exec_frameNormal h .toHost s, fun h => exec_frameExtended h .toHost s, rfl, fun hcap => ?_⟩
  have harrives (bytes : Bytes) : crossBoundary .toHost bytes s = .next { s with rsp := .none, acc := s.acc ++ bytes } := by
    rw [crossBoundary, receive_of_unbounded hcap]; rfl
  exact ⟨fun h => (exec_frameNormal h .toHost s).trans (harrives _),
    fun h => (exec_frameExtended h .toHost s).trans (harrives _), harrives ackFrame⟩

theorem step_nil {s : State} (hq : s.inq = []) : step s = .next s := by
  simp only [step, fetch, hq]

theorem step_reader {s : State} {bs : Bytes} {l : List Event} (hq : s.inq = .reader bs :: l) :
    step s = .next { s with inq := l, tpend := s.tpend ++ bs } := by
  simp only [step, fetch, hq, readerSends]

theorem step_deliver {s : State} {n : Nat} {l : List Event} (hq : s.inq = .deliver n :: l) (hpos : 0 < n)
    (hle : n ≤ s.tpend.length) :
    step s = exec (.rxb (s.tpend.take n)) { s with inq := l, tpend := s.tpend.drop n } := by
  simp only [step, fetch, hq, hpos, hle, and_self, if_true, exec_decodeChunk, exec_rxb]

/-- A delivery of nothing, or of more than there is, does not happen (R298). -/
theorem step_noDelivery {s : State} {n : Nat} {l : List Event} (hq : s.inq = .deliver n :: l)
    (hn : ¬ (0 < n ∧ n ≤ s.tpend.length)) : step s = .next { s with inq := l } := by
  simp only [step, fetch, hq, if_neg hn]

/-- Settles O27: the fetch runs the environment's steps itself, and hands a delivered chunk on. -/
theorem environmentSteps : Obligations.EnvironmentSteps :=
  fun _ _ => ⟨fun _ hq => step_reader hq, fun _ hq hpos hle => step_deliver hq hpos hle, step_nil⟩

/-! ### The cancel sub-procedure, and operations out of stage -/

/-- Settles O41: in a waiting state the operation is `cancelBegin`. -/
theorem cancelBegins : Obligations.CancelBegins := fun tag cause _ hst => exec_cancelBegin hst tag cause

theorem failedBody_length_le (k : Nat) : (failedBody k).length ≤ 265 := List.length_take_le _ _

/-- Settles O42: the body is the free value, cut to 265 bytes. -/
theorem cancelFinishes : Obligations.CancelFinishes :=
  fun s hst hdue => ⟨failedBody s.free, failedBody_length_le s.free, exec_cancelFinish hst hdue⟩

theorem next_inStage_of_ne {st : SeqState} {s : State} (h : s.st ≠ st) (f : State → State) :
    (.next (answer .none (inStage st f s)) : Host.Outcome State Fault Refusal) = .next { s with rsp := .none } := by
  rw [inStage, if_neg h]; rfl

theorem exec_cancelFinish_of_not_over {s : State} (h : s.st ≠ .cancelWait ∨ s.now < s.cdl) :
    exec .cancelFinish s = .next { s with rsp := .none } := by
  obtain hst | hearly := h
  · refine congrArg (fun t => Host.Outcome.next (answer .none t)) ?_
    rw [inStage, if_neg hst, ite_self]
  · exact congrArg (fun t => Host.Outcome.next (answer .none t)) (if_neg (Nat.not_le.mpr hearly))

/-- Settles O43: each operation tests its stage, CANCEL.FINISH the wait besides, enq the room. -/
theorem nothingReactsOutOfStage : Obligations.NothingReactsOutOfStage := by
  intro s status bytes p tag b0 b1 b2 b3 b4 n v t cid same
  have hunless {c : Prop} [Decidable c] (hc : ¬ c) (f : State) :
      Host.Outcome.next (answer .none (if c then f else s)) = same := by rw [if_neg hc]; rfl
  refine ⟨fun h => ⟨next_inStage_of_ne h _, next_inStage_of_ne h _⟩,
    fun h => ⟨fun hlen => ?_, next_inStage_of_ne h _, next_inStage_of_ne h _, next_inStage_of_ne h _⟩,
    fun h => ⟨fun hlen => ?_, next_inStage_of_ne h _⟩,
    fun h => ⟨next_inStage_of_ne h _, ?_⟩,
    fun h => ⟨next_inStage_of_ne h _, next_inStage_of_ne h _, next_inStage_of_ne h _⟩,
    fun h => hunless (by simp [h]) _, exec_cancelFinish_of_not_over, fun h => hunless (Nat.not_lt.mpr h) _⟩
  · exact (if_neg fun hdom => hdom.2 (hlen hdom.1)).trans (next_inStage_of_ne h _)
  · exact (if_neg fun hdom => hdom.2 (hlen hdom.1)).trans (next_inStage_of_ne h _)
  · refine congrArg (fun t => Host.Outcome.next (answer .none t)) ?_
    rw [inStage, if_neg h, ite_self]

end Sys2Proof.Machine
end

section
/-! PROOF. What every step does with the parameters, time, `TIMEOUT_MS`, `ACC_OVF`, the trace `OUT` and the queue. -/

namespace Sys2Proof.Machine

/-! ### A step answers next -/

theorem exec_decodeHost_next (h : HostCmd) (s : State) : ∃ t, exec (decodeHost h) s = .next t := by
  obtain ⟨r, _, _, _, he⟩ | ⟨_, he⟩ | ⟨v, _, _, _, _, _, he⟩ | ⟨v, _, _, _, he⟩ | ⟨_, he⟩ | ⟨_, he⟩ :=
    exec_decodeHost_cases h s
  all_goals exact ⟨_, he⟩

/-- Settles O47: by the event that waits; an operation of the port is accepted or refused, and a chunk is received. -/
theorem everyStepAnswersNext : Obligations.EveryStepAnswersNext := by
  intro s
  cases hq : s.inq with
  | nil => exact ⟨_, step_nil hq⟩
  | cons e l =>
    cases e with
    | host h =>
      rw [step_host hq]
      exact exec_decodeHost_next h _
    | rx c => exact ⟨_, step_rx hq⟩
    | tick => exact ⟨_, step_tick hq⟩
    | reader bs => exact ⟨_, step_reader hq⟩
    | deliver n =>
      by_cases hn : 0 < n ∧ n ≤ s.tpend.length
      · exact ⟨_, (step_deliver hq hn.1 hn.2).trans (exec_rxb _ _)⟩
      · exact ⟨_, step_noDelivery hq hn⟩

/-! ### Parameters and time -/

/-- Settles O48: no operation writes the parameters, RESET keeps them. -/
theorem parametersNeverChange : Obligations.ParametersNeverChange := by
  intro s t hstep
  cases step_cases hstep with
  | tick l hq => exact tick_cfg _
  | idle | reader | noDelivery | delivery | chunk | refused | nop | exec | enq | cfgw | reset => rfl

/-- `NOW` after a step (R292): a tick's, 0 after a RESET, or what it was. -/
theorem step_now_cases {s t : State} (hstep : step s = .next t) :
    (s.inq.head? = some .tick ∧ ¬ resetNext s ∧ t.now = timeValue s.cfg (s.now + s.cfg.tickMs)) ∨
      (s.inq.head? ≠ some .tick ∧ resetNext s ∧ t.now = 0) ∨
      (s.inq.head? ≠ some .tick ∧ ¬ resetNext s ∧ t.now = s.now) := by
  cases step_cases hstep with
  | tick l hq => exact .inl ⟨by simp [hq], by simp [resetNext, hq], tick_now _⟩
  | reset h l hq hop => exact .inr (.inl ⟨by simp [hq], by simp [resetNext, hq, hop], rfl⟩)
  | refused h l r hq h0 h3 hf => exact .inr (.inr ⟨by simp [hq], by simpa [resetNext, hq] using hf, rfl⟩)
  | nop h l hq hop | exec h l v hq hop | enq h l v hq hop | cfgw h l hq hop =>
    exact .inr (.inr ⟨by simp [hq], by simp [resetNext, hq, hop], rfl⟩)
  | idle hq | reader _ _ hq | noDelivery _ _ hq | delivery _ _ hq | chunk _ _ hq =>
    exact .inr (.inr ⟨by simp [hq], by simp [resetNext, hq], rfl⟩)

/-- Settles O50: the three cases of `step_now_cases` exclude each other. -/
theorem onlyTicksAdvanceTime : Obligations.OnlyTicksAdvanceTime := by
  intro s t hstep
  obtain ⟨htick, hreset, hnow⟩ | ⟨htick, hreset, hnow⟩ | ⟨htick, hreset, hnow⟩ := step_now_cases hstep
  · exact ⟨fun _ => hnow, fun h => absurd h hreset, fun h => absurd htick h⟩
  · exact ⟨fun h => absurd h htick, fun _ => hnow, fun _ h => absurd hreset h⟩
  · exact ⟨fun h => absurd h htick, fun h => absurd h hreset, fun _ _ => hnow⟩

/-- Settles O49: a tick that does not wrap adds `TICK_MS` exactly; 0 is a whole number of ticks. -/
theorem timesAreExactWhereTheyFit : Obligations.TimesAreExactWhereTheyFit := by
  refine ⟨fun c n => ⟨timeValue_of_fits, fun h => timeValue_unbounded h n, fits_timeValue c n⟩,
    fun s t hstep hwhole hfits => ?_⟩
  rw [parametersNeverChange s t hstep]
  obtain ⟨_, _, hnow⟩ | ⟨_, _, hnow⟩ | ⟨_, _, hnow⟩ := step_now_cases hstep
  · rw [hnow, timeValue_of_fits hfits, Nat.add_mod_right, hwhole]
  · rw [hnow, Nat.zero_mod]
  · rw [hnow, hwhole]

/-! ### TIMEOUT_MS and ACC_OVF -/

/-- Settles O58: CFGW writes its value, RESET the default, and the other operations do not write the register. -/
theorem timeoutIsWrittenByCfgwOnly : Obligations.TimeoutIsWrittenByCfgwOnly := by
  intro s t hstep
  cases step_cases hstep with
  | tick l hq => exact ⟨by simp [hq], by simp [resetNext, hq], fun _ _ => tick_timeoutMs _⟩
  | cfgw h l hq hop =>
    refine ⟨fun h' hh' _ => ?_, by simp [resetNext, hq, hop], fun _ hother => absurd hop (hother h (by simp [hq]))⟩
    obtain rfl : h = h' := by simpa [hq] using hh'
    exact ⟨rfl, rfl⟩
  | reset h l hq hop => exact ⟨by simp [hq, hop], fun _ => rfl, fun hreset => absurd ⟨h, by simp [hq], hop⟩ hreset⟩
  | refused h l r hq h0 h3 hf =>
    refine ⟨fun h' hh' hop => ?_, fun hreset => absurd hreset (by simpa [resetNext, hq] using hf), fun _ _ => rfl⟩
    obtain rfl : h = h' := by simpa [hq] using hh'
    exact absurd hop h3
  | nop h l hq hop | exec h l v hq hop | enq h l v hq hop =>
    exact ⟨by simp [hq, hop], by simp [resetNext, hq, hop], fun _ _ => rfl⟩
  | idle hq | reader _ _ hq | noDelivery _ _ hq | delivery _ _ hq | chunk _ _ hq =>
    exact ⟨by simp [hq], by simp [resetNext, hq], fun _ _ => rfl⟩

/-- A chunk sets the flag exactly when `ACC` would exceed `ACC_CAP` (R38, R162). -/
theorem receive_accOvf_iff {s : State} (hbound : ∀ cap, s.cfg.accCap = some cap → s.acc.length ≤ cap) (c : Bytes) :
    (receive c s).accOvf = true ↔ s.accOvf = true ∨ ∃ cap, s.cfg.accCap = some cap ∧ cap < s.acc.length + c.length := by
  cases hcap : s.cfg.accCap with
  | none => simp [receive_of_unbounded hcap]
  | some cap =>
    have hle := hbound cap hcap
    have hover : cap - s.acc.length < c.length ↔ cap < s.acc.length + c.length := by omega
    simp [receive_of_cap hcap, hover]

/-- The chunk that arrives in a step: delivered whole, or taken from what the transport holds. -/
def Arrives (s : State) (c : Bytes) : Prop :=
  s.inq.head? = some (.rx c) ∨
    ∃ n, s.inq.head? = some (.deliver n) ∧ 0 < n ∧ n ≤ s.tpend.length ∧ c = s.tpend.take n

/-- A step but a RESET leaves the flag, or receives the one chunk that arrives. -/
theorem step_accOvf_cases {s t : State} (hstep : step s = .next t) :
    (resetNext s ∧ t.accOvf = false) ∨
      (¬ resetNext s ∧ (∀ c, ¬ Arrives s c) ∧ t.accOvf = s.accOvf) ∨
      (¬ resetNext s ∧ ∃ c, (∀ c', Arrives s c' ↔ c' = c) ∧ t.accOvf = (receive c s).accOvf) := by
  cases step_cases hstep with
  | tick l hq => exact .inr (.inl ⟨by simp [resetNext, hq], by simp [Arrives, hq], tick_accOvf _⟩)
  | reset h l hq hop => exact .inl ⟨by simp [resetNext, hq, hop], rfl⟩
  | refused h l r hq h0 h3 hf =>
    exact .inr (.inl ⟨by simpa [resetNext, hq] using hf, by simp [Arrives, hq], rfl⟩)
  | nop h l hq hop | exec h l v hq hop | enq h l v hq hop | cfgw h l hq hop =>
    exact .inr (.inl ⟨by simp [resetNext, hq, hop], by simp [Arrives, hq], rfl⟩)
  | idle hq | reader _ _ hq => exact .inr (.inl ⟨by simp [resetNext, hq], by simp [Arrives, hq], rfl⟩)
  | noDelivery n l hq hn =>
    refine .inr (.inl ⟨by simp [resetNext, hq], fun c => ?_, rfl⟩)
    rintro (hrx | ⟨n', hn', hpos, hle, _⟩)
    · simp [hq] at hrx
    · obtain rfl : n = n' := by simpa [hq] using hn'
      exact hn ⟨hpos, hle⟩
  | delivery n l hq hpos hle =>
    exact .inr (.inr ⟨by simp [resetNext, hq], s.tpend.take n, fun c' => by simp [Arrives, hq, hpos, hle], rfl⟩)
  | chunk c l hq =>
    exact .inr (.inr ⟨by simp [resetNext, hq], c, fun c' => by simp [Arrives, hq, eq_comm], rfl⟩)

/-- Settles O57: the flag is the one `receive` leaves; the invariants bound `ACC` by `ACC_CAP`. -/
theorem overflowFlagIsSticky : Obligations.OverflowFlagIsSticky := by
  intro s t hinv hstep
  obtain ⟨hreset, hovf⟩ | ⟨hreset, harrives, hovf⟩ | ⟨hreset, c, harrives, hovf⟩ := step_accOvf_cases hstep
  · exact ⟨fun _ => hovf, fun h => absurd hreset h⟩
  · refine ⟨fun h => absurd h hreset, fun _ => ?_⟩
    rw [hovf]
    exact ⟨.inl, fun h => h.resolve_right fun ⟨c, _, _, _, hc⟩ => harrives c hc⟩
  · refine ⟨fun h => absurd h hreset, fun _ => ?_⟩
    rw [hovf, receive_accOvf_iff hinv.accBound]
    refine or_congr_right ⟨fun ⟨cap, hcap, hover⟩ => ⟨c, cap, hcap, hover, (harrives c).mpr rfl⟩, ?_⟩
    rintro ⟨c', cap, hcap, hover, hc'⟩
    obtain rfl := (harrives c').mp hc'
    exact ⟨cap, hcap, hover⟩

end Sys2Proof.Machine
end

section
/-! PROOF. What every step does with the trace `OUT` (R44, R74) and with the queue (R161). -/

namespace Sys2Proof.Machine

/-! ### OUT -/

/-- A reaction emits nothing, or the cancel frame of a failure (R196). -/
theorem react_out_cases (status : Status) (bytes : Bytes) (s : State) :
    (react status bytes s).out = s.out ∨
      (waiting s.st = true ∧ (react status bytes s).st = .cancelWait ∧
        (react status bytes s).out = s.out ++ cancelFrame.map .tx) := by
  obtain ⟨_, hreact⟩ | ⟨tag, cause, s1, hwait, ⟨_, _, _, _, _, _, rfl⟩, _, hreact⟩ |
    ⟨n, v, st, s1, _, ⟨_, _, _, _, _, _, rfl⟩, _, hreact⟩ | ⟨_, _, _, _, hreact⟩ :=
    react_cases status bytes s <;> rw [hreact]
  · exact .inl rfl
  · exact .inr ⟨hwait, rfl, rfl⟩
  · exact .inl rfl
  · exact .inl rfl

theorem served_out_cases (s : State) :
    (served s).out = s.out ∨
      (waiting s.st = true ∧ (served s).st = .cancelWait ∧ (served s).out = s.out ++ cancelFrame.map .tx) := by
  cases servedCase s with
  | empty hq h => rw [h]; exact .inl rfl
  | waits e rest hq hshort hearly h => rw [h]; exact .inl rfl
  | raw e rest k status bytes hq hcid hends h => rw [h]; exact .inl rfl
  | seq e rest status bytes hq hcid hends h => rw [h]; exact react_out_cases status bytes _

/-- A tick emits nothing, the cancel frame of a failure, or the FLUSH that ends the cancel wait (R196, R197). -/
theorem tick_out_cases (s : State) :
    (tick s).out = s.out ∨
      (waiting s.st = true ∧ (tick s).st = .cancelWait ∧ (tick s).out = s.out ++ cancelFrame.map .tx) ∨
      (s.st = .cancelWait ∧ (tick s).st = .idle ∧ (tick s).out = s.out ++ [.flush]) := by
  by_cases hdue : CancelDue s
  · have hst := hdue.1
    have hquiet : (served s).out = s.out :=
      (served_out_cases s).resolve_right fun ⟨hwait, _⟩ => by rw [hst] at hwait; cases hwait
    rw [tick_of_cancelDue hdue]
    exact .inr (.inr ⟨hst, rfl, by rw [cancelFinish_out, hquiet]⟩)
  · rw [tick_of_not_cancelDue hdue]
    exact (served_out_cases s).imp_right .inl

/-- Settles O55: a tick emits what `tick_out_cases` says, an accepted EXEC its FLUSH and frame, and no other step anything. -/
theorem outputOrder : Obligations.OutputOrder := by
  intro s t hstep hreset
  cases step_cases hstep with
  | tick l hq =>
    have hhead : s.inq.head? = some .tick := by simp [hq]
    obtain hout | ⟨hwait, hst, hout⟩ | ⟨hcancel, hst, hout⟩ := tick_out_cases { s with inq := l }
    · exact ⟨[], by simp [hout], .inl rfl⟩
    · exact ⟨_, hout, .inr (.inr (.inl ⟨hhead, hwait, hst, rfl⟩))⟩
    · exact ⟨_, hout, .inr (.inr (.inr ⟨hhead, hcancel, hst, rfl⟩))⟩
  | exec h l v hq hop hload hst =>
    exact ⟨_, List.append_assoc .., .inr (.inl ⟨h, by simp [hq], hop, hst, rfl, rfl⟩)⟩
  | reset h l hq hop => exact absurd ⟨h, by simp [hq], hop⟩ hreset
  | idle | reader | noDelivery | delivery | chunk | refused | nop | enq | cfgw => exact ⟨[], (List.append_nil _).symm, .inl rfl⟩

/-! ### The queue -/

/-- A read that has just been enqueued in `s`: nothing assembled, the deadline from `NOW`, the sequencer's by `TIMEOUT_MS`. -/
def Fresh (s : State) (e : Entry) : Prop :=
  e.acc = [] ∧ (∃ ms : BitVec 32, e.deadline = timeValue s.cfg (s.now + ms.toNat)) ∧
    (e.cid = .seq → e.deadline = timeValue s.cfg (s.now + s.timeoutMs.toNat))

/-- The read that `enqueue` adds (R153). -/
def newRead (n : Nat) (v : Validator) (t : BitVec 32) (cid : Cid) (s : State) : Entry :=
  { need := n, acc := [], v := v, deadline := timeValue s.cfg (s.now + t.toNat), cid := cid }

theorem enqueue_q_eq_newRead (n : Nat) (v : Validator) (t : BitVec 32) (cid : Cid) (s : State) :
    (enqueue n v t cid s).q = s.q ++ [newRead n v t cid s] := rfl

theorem fresh_newRead_seq (n : Nat) (v : Validator) (s : State) : Fresh s (newRead n v s.timeoutMs .seq s) :=
  ⟨rfl, ⟨s.timeoutMs, rfl⟩, fun _ => rfl⟩

theorem fresh_newRead_raw (n : Nat) (v : Validator) (t : BitVec 32) (k : BitVec 16) (s : State) :
    Fresh s (newRead n v t (.raw k) s) := ⟨rfl, ⟨t, rfl⟩, nofun⟩

/-- At most one read, just enqueued in `s`. -/
def AtMostOneFresh (s : State) (new : List Entry) : Prop := new.length ≤ 1 ∧ ∀ e ∈ new, Fresh s e

theorem atMostOneFresh_nil (s : State) : AtMostOneFresh s [] := ⟨Nat.zero_le 1, nofun⟩

theorem atMostOneFresh_singleton {s : State} {e : Entry} (h : Fresh s e) : AtMostOneFresh s [e] :=
  ⟨Nat.le_refl 1, fun _ he => List.mem_singleton.mp he ▸ h⟩

/-- A reaction enqueues at most the read of the next stage (R180). -/
theorem react_q (status : Status) (bytes : Bytes) (s : State) :
    ∃ new, (react status bytes s).q = s.q ++ new ∧ AtMostOneFresh s new := by
  obtain ⟨_, hreact⟩ | ⟨tag, cause, s1, _, ⟨_, _, _, _, _, _, rfl⟩, _, hreact⟩ |
    ⟨n, v, st, s1, _, ⟨_, _, _, _, _, _, rfl⟩, _, hreact⟩ | ⟨_, _, _, _, hreact⟩ :=
    react_cases status bytes s <;> rw [hreact]
  · exact ⟨[], (List.append_nil _).symm, atMostOneFresh_nil s⟩
  · exact ⟨[], (List.append_nil _).symm, atMostOneFresh_nil s⟩
  · exact ⟨_, rfl, atMostOneFresh_singleton (fresh_newRead_seq n v s)⟩
  · exact ⟨[], (List.append_nil _).symm, atMostOneFresh_nil s⟩

theorem tick_q (s : State) : (tick s).q = (served s).q := by
  by_cases hdue : CancelDue s
  · rw [tick_of_cancelDue hdue, cancelFinish_q]
  · rw [tick_of_not_cancelDue hdue]

/-- The head `e` has taken all of `acc` and waits on (R155). -/
def HeadWaits (acc : Bytes) (e e' : Entry) : Prop :=
  e'.v = e.v ∧ e'.deadline = e.deadline ∧ e'.cid = e.cid ∧ e'.acc = e.acc ++ acc ∧ e'.requested = e.requested

/-- What a tick does with the queue (R161): the head leaves, with at most one read behind the rest; or the head waits on. -/
theorem tick_q_cases (s : State) :
    (∃ new, (tick s).q = s.q.tail ++ new ∧ AtMostOneFresh (advance s) new) ∨
      ∃ e e' rest, s.q = e :: rest ∧ (tick s).q = e' :: rest ∧ HeadWaits s.acc e e' := by
  rw [tick_q]
  cases servedCase s with
  | empty hq h => exact .inl ⟨[], by simp [h, hq], atMostOneFresh_nil _⟩
  | waits e rest hq hshort hearly h =>
    exact .inr ⟨e, e.fed s.acc, rest, hq, by rw [h]; rfl, rfl, rfl, rfl, rfl, Entry.requested_fed hshort.le⟩
  | raw e rest k status bytes hq hcid hends h => exact .inl ⟨[], by simp [h, hq, withoutHead], atMostOneFresh_nil _⟩
  | seq e rest status bytes hq hcid hends h =>
    obtain ⟨new, hnew, hfresh⟩ := react_q status bytes (withoutHead e rest (advance s))
    exact .inl ⟨new, by rw [h, hnew, hq]; rfl, hfresh⟩

theorem fresh_tick (s : State) (e : Entry) : Fresh (tick s) e ↔ Fresh (advance s) e := by
  simp [Fresh]

/-- Settles O56: a tick does what `tick_q_cases` says, EXEC and ENQ add one read, and no other step but a RESET touches `Q`. -/
theorem onlyTheHeadIsTouched : Obligations.OnlyTheHeadIsTouched := by
  intro s t hstep hreset
  cases step_cases hstep with
  | tick l hq =>
    have hhead : s.inq.head? = some .tick := by simp [hq]
    obtain ⟨new, hnew, hlen, hfresh⟩ | ⟨e, e', rest, he, ht, hwaits⟩ := tick_q_cases { s with inq := l }
    · exact ⟨new, hlen, fun e he => (fresh_tick _ e).mpr (hfresh e he), .inr (.inl ⟨hhead, hnew⟩)⟩
    · exact ⟨[], Nat.zero_le 1, nofun, .inr (.inr ⟨hhead, rfl, e, e', rest, he, ht, hwaits⟩)⟩
  | exec h l v hq =>
    obtain ⟨hlen, hall⟩ := atMostOneFresh_singleton (fresh_newRead_seq 6 vAck s)
    exact ⟨_, hlen, hall, .inl rfl⟩
  | enq h l v hq =>
    obtain ⟨hlen, hall⟩ := atMostOneFresh_singleton (fresh_newRead_raw h.count.toNat v h.value s.tkt s)
    exact ⟨_, hlen, hall, .inl rfl⟩
  | reset h l hq hop => exact absurd ⟨h, by simp [hq], hop⟩ hreset
  | idle | reader | noDelivery | delivery | chunk | refused | nop | cfgw =>
    exact ⟨[], Nat.zero_le 1, nofun, .inl (List.append_nil _).symm⟩

end Sys2Proof.Machine
end

section
/-! PROOF. The invariants (R47): at reset, and kept by every step. -/

namespace Sys2Proof.Machine

/-! ### At reset -/

theorem inv_resetWith {c : Config} (h : c.Legal) : Inv (State.resetWith c) where
  legal := h
  queueBound := Nat.zero_le _
  behindHead := nofun
  seqRead := rfl
  resultIdle := nofun
  idleResult := fun _ hout => absurd rfl hout
  lengthBound := nofun
  wholeTicks := fun _ => Nat.zero_mod _
  timeWidth := ⟨fun w _ => Nat.two_pow_pos w, fun w _ => Nat.two_pow_pos w, nofun⟩
  accBound := fun _ _ => Nat.zero_le _
  unboundedNoFault := fun _ => rfl
  cmdBound := Nat.zero_le _
  hdrLength := .inl rfl
  extbLength := .inl rfl
  markerCaptured := nofun
  lengthCaptured := nofun
  bodyBound := Nat.zero_le _
  bodyCaptured := nofun
  heldFailure := nofun
  result := ⟨fun _ => rfl, nofun, nofun⟩

/-- Settles O45: the example parameters are legal. -/
theorem resetMeetsTheInvariants : Obligations.ResetMeetsTheInvariants :=
  ⟨fun _ h => inv_resetWith h, inv_resetWith (by decide)⟩

/-! ### The sequencer's reads in the queue -/

@[simp] theorem seqReads_nil : seqReads [] = [] := rfl

theorem seqReads_append (q q' : List Entry) : seqReads (q ++ q') = seqReads q ++ seqReads q' := by
  simp [seqReads]

theorem seqReads_cons_seq {e : Entry} (h : e.cid = .seq) (q : List Entry) :
    seqReads (e :: q) = (e.requested, e.v) :: seqReads q := by
  simp [seqReads, h]

theorem seqReads_cons_raw {e : Entry} {k : BitVec 16} (h : e.cid = .raw k) (q : List Entry) : seqReads (e :: q) = seqReads q := by
  simp [seqReads, h]

/-- A head that waits asks for what it asked for (R47 b). -/
theorem seqReads_cons_fed {e : Entry} {acc : Bytes} (h : acc.length ≤ e.need) (q : List Entry) :
    seqReads (e.fed acc :: q) = seqReads (e :: q) := by
  cases hcid : e.cid with
  | seq =>
    rw [seqReads_cons_seq hcid, seqReads_cons_seq (e := e.fed acc) hcid, Entry.requested_fed h]
    rfl
  | raw k => rw [seqReads_cons_raw hcid, seqReads_cons_raw (e := e.fed acc) hcid]

/-- A stage waits with one read (R203). -/
theorem stageReads_tail {st : SeqState} {rlen : BitVec 16} {r : Nat × Validator} {l : List (Nat × Validator)}
    (h : r :: l = stageReads st rlen) : l = [] ∧ st ≠ .idle ∧ st ≠ .cancelWait := by
  cases st <;> cases h <;> exact ⟨rfl, nofun, nofun⟩

theorem waiting_of_stageReads {st : SeqState} {rlen : BitVec 16} {r : Nat × Validator} {l : List (Nat × Validator)}
    (h : r :: l = stageReads st rlen) : waiting st = true := by
  cases st <;> cases h <;> rfl

theorem tail_append_acc_eq_nil {q : List Entry} {e : Entry} (hq : ∀ x ∈ q.tail, x.acc = []) (he : e.acc = []) :
    ∀ x ∈ (q ++ [e]).tail, x.acc = [] := by
  cases q with
  | nil => exact nofun
  | cons a q => simpa [or_imp, forall_and, he] using hq

/-! ### Operations that no invariant, or one clause, speaks of -/

section
variable {s : State} (h : Inv s)
include h

theorem Inv.withInq (inq : List Event) : Inv { s with inq := inq } := { h with }

theorem Inv.withTpend (tpend : Bytes) : Inv { s with tpend := tpend } := { h with }

theorem Inv.withFree (free : Nat) : Inv { s with free := free } := { h with }

theorem Inv.withTkt (tkt : BitVec 16) : Inv { s with tkt := tkt } := { h with }

theorem Inv.withTimeoutMs (ms : BitVec 32) : Inv { s with timeoutMs := ms } := { h with }

theorem Inv.answer (r : Rsp) : Inv (answer r s) := { h with }

theorem Inv.emitEvt (e : EvtItem) : Inv (emitEvt e s) := { h with }

theorem Inv.receive (c : Bytes) : Inv (receive c s) := by
  have hbound : ∀ cap, s.cfg.accCap = some cap → (Machine.receive c s).acc.length ≤ cap := fun cap hcap => by
    have hacc := h.accBound cap hcap
    rw [receive_of_cap hcap, List.length_append, List.length_take]
    omega
  have hunbounded : s.cfg.accCap = none → (Machine.receive c s).accOvf = false := fun hcap => by
    rw [receive_of_unbounded hcap]
    exact h.unboundedNoFault hcap
  exact { h with accBound := hbound, unboundedNoFault := hunbounded }

/-- A tick that does not wrap is a whole `TICK_MS`; one that does is of a bounded counter. -/
theorem Inv.advance : Inv (advance s) := by
  obtain ⟨_, hcdl, hq⟩ := h.timeWidth
  refine { h with wholeTicks := fun hw => ?_, timeWidth := ⟨fits_timeValue _ _, hcdl, hq⟩ }
  rw [advance_now, timeValue_unbounded (c := s.cfg) hw]
  exact (Nat.add_mod_right _ _).trans (h.wholeTicks hw)

/-- Any read but the sequencer's may be enqueued where there is room (R152). -/
theorem Inv.enqueue_raw (hroom : s.q.length < s.cfg.qDepth) (n : Nat) (v : Validator) (t : BitVec 32) (k : BitVec 16) :
    Inv (enqueue n v t (.raw k) s) := by
  obtain ⟨hnow, hcdl, hq⟩ := h.timeWidth
  have hreads : seqReads (enqueue n v t (.raw k) s).q = seqReads s.q := by
    rw [enqueue_q_eq_newRead, seqReads_append, seqReads_cons_raw (e := newRead n v t (.raw k) s) rfl, seqReads_nil,
      List.append_nil]
  exact
    { h with
      queueBound := by rw [enqueue_q_eq_newRead, List.length_append]; exact hroom
      behindHead := tail_append_acc_eq_nil h.behindHead rfl
      seqRead := hreads.trans h.seqRead
      timeWidth := ⟨hnow, hcdl, List.forall_mem_append.mpr ⟨hq, List.forall_mem_singleton.mpr (fits_timeValue _ _)⟩⟩ }

theorem Inv.accBound_drop (n : Nat) : ∀ cap, s.cfg.accCap = some cap → (s.acc.drop n).length ≤ cap := fun cap hcap =>
  (List.length_drop.trans_le (Nat.sub_le _ _)).trans (h.accBound cap hcap)

/-- The head keeps waiting (R155). -/
theorem Inv.withWaitingHead {e : Entry} {rest : List Entry} (hq : s.q = e :: rest) (hshort : s.acc.length < e.need) :
    Inv (withWaitingHead e rest s) := by
  obtain ⟨hnow, hcdl, hdl⟩ := h.timeWidth
  have hbound := h.queueBound
  have hbehind := h.behindHead
  have hreads := h.seqRead
  rw [hq] at hdl hbound hbehind hreads
  exact
    { h with
      queueBound := hbound
      behindHead := hbehind
      seqRead := (seqReads_cons_fed hshort.le rest).trans hreads
      timeWidth := ⟨hnow, hcdl, List.forall_mem_cons.mpr (List.forall_mem_cons.mp hdl)⟩
      accBound := fun _ _ => Nat.zero_le _ }

/-- A raw read leaves the queue (R155). -/
theorem Inv.withoutHead_raw {e : Entry} {rest : List Entry} {k : BitVec 16} (hq : s.q = e :: rest) (hcid : e.cid = .raw k) :
    Inv (withoutHead e rest s) := by
  obtain ⟨hnow, hcdl, hdl⟩ := h.timeWidth
  have hbound := h.queueBound
  have hbehind := h.behindHead
  have hreads := h.seqRead
  rw [hq] at hdl hbound hbehind hreads
  exact
    { h with
      queueBound := Nat.le_of_succ_le hbound
      behindHead := fun x hx => hbehind x (List.mem_of_mem_tail hx)
      seqRead := (seqReads_cons_raw hcid rest).symm.trans hreads
      timeWidth := ⟨hnow, hcdl, fun x hx => hdl x (List.mem_cons_of_mem e hx)⟩
      accBound := h.accBound_drop e.need }

/-- The end of the cancel wait surfaces a failure of the twelve (R197, R272). -/
theorem Inv.cancelFinish (hst : s.st = .cancelWait) : Inv (cancelFinish s) := by
  have hreads := h.seqRead
  rw [hst] at hreads
  exact
    { h with
      seqRead := hreads
      resultIdle := fun _ => rfl
      idleResult := fun _ _ => rfl
      lengthBound := nofun
      accBound := fun _ _ => Nat.zero_le _
      markerCaptured := nofun
      lengthCaptured := nofun
      bodyCaptured := nofun
      heldFailure := nofun
      result := ⟨nofun, nofun, fun _ _ => ⟨h.heldFailure hst, rfl, failedBody_length_le s.free⟩⟩ }
end

theorem okRes_blen {s : State} (hbody : s.body.length ≤ maxRespLen) : (okRes s).blen.toNat = s.body.length :=
  Nat.mod_eq_of_lt (Nat.lt_of_le_of_lt hbody (by decide))

/-! ### Between the end of the sequencer's read and the reaction to it -/

/-- The invariants that speak of no stage, in a state with no read of the sequencer and with room for one, in a transaction. -/
structure NoRead (s : State) : Prop where
  legal : s.cfg.Legal
  room : s.q.length < s.cfg.qDepth
  behindHead : ∀ e ∈ s.q.tail, e.acc = []
  noRead : seqReads s.q = []
  noResult : s.res.valid = false
  wholeTicks : s.cfg.wTime = none → s.now % s.cfg.tickMs = 0
  timeWidth : Fits s.cfg s.now ∧ Fits s.cfg s.cdl ∧ ∀ e ∈ s.q, Fits s.cfg e.deadline
  accBound : ∀ cap, s.cfg.accCap = some cap → s.acc.length ≤ cap
  unboundedNoFault : s.cfg.accCap = none → s.accOvf = false
  cmdBound : s.cmd.length ≤ s.cfg.cmdCap
  hdrLength : s.hdr = [] ∨ s.hdr.length = 5
  extbLength : s.extb = [] ∨ s.extb.length = 3
  bodyBound : s.body.length ≤ maxRespLen
  result : resultOk s.res

/-- The invariants of the captures in their stage (R33 to R37). -/
structure Captures (s : State) : Prop where
  lengthBound : s.st = .wBody ∨ s.st = .wTrl → s.rlen.toNat ≤ maxRespLen
  markerCaptured : s.st = .wExt → s.hdr = [0x00, 0x00, 0xFF, 0xFF, 0xFF] ∧ s.extf = true
  lengthCaptured : s.st = .wBody ∨ s.st = .wTrl → headerPassed s
  bodyCaptured : s.st = .wTrl → s.body.length = s.rlen.toNat ∧ s.bdcs = csum s.body

theorem Inv.captures {s : State} (h : Inv s) : Captures s := { h with }

/-- The stage after the ACK and the header, whatever was captured: nothing is claimed of it yet. -/
theorem captures_of_early {s : State} (h : s.st = .wAck ∨ s.st = .wHdr) : Captures s := by
  obtain h | h := h <;> constructor <;> simp [h]

section
variable {s : State} (h : NoRead s)
include h

theorem NoRead.withHdr {hdr : Bytes} (hlen : hdr.length = 5) (extf : Bool) : NoRead { s with hdr := hdr, extf := extf } :=
  { h with hdrLength := .inr hlen }

theorem NoRead.withExtb {extb : Bytes} (hlen : extb.length = 3) : NoRead { s with extb := extb } :=
  { h with extbLength := .inr hlen }

theorem NoRead.withRlen (rlen : BitVec 16) : NoRead { s with rlen := rlen } := { h with }

theorem NoRead.withBody {body : Bytes} (hlen : body.length ≤ maxRespLen) (bdcs : Byte) :
    NoRead { s with body := body, bdcs := bdcs } := { h with bodyBound := hlen }

/-- The next stage, with its read (R180). -/
theorem NoRead.inv_seqRead {n : Nat} {v : Validator} {st : SeqState} (hreads : stageReads st s.rlen = [(n, v)])
    (hcap : Captures { s with st := st }) : Inv { seqRead n v s with st := st } := by
  obtain ⟨hnow, hcdl, hq⟩ := h.timeWidth
  obtain ⟨_, hidle, hcancel⟩ := stageReads_tail hreads.symm
  have hqueue : seqReads (seqRead n v s).q = [(n, v)] := by
    rw [Machine.seqRead, enqueue_q_eq_newRead, seqReads_append, h.noRead]
    exact congrArg (fun k => [(k, v)]) (Nat.zero_add n)
  exact
    { h, hcap with
      queueBound := by rw [Machine.seqRead, enqueue_q_eq_newRead, List.length_append]; exact h.room
      behindHead := tail_append_acc_eq_nil h.behindHead rfl
      seqRead := hqueue.trans hreads.symm
      resultIdle := fun hvalid => absurd (h.noResult.symm.trans hvalid) Bool.false_ne_true
      idleResult := fun hst => absurd hst hidle
      timeWidth := ⟨hnow, hcdl, List.forall_mem_append.mpr ⟨hq, List.forall_mem_singleton.mpr (fits_timeValue _ _)⟩⟩
      heldFailure := fun hst => absurd hst hcancel }

/-- A failure, which the cancel wait holds (R196). -/
theorem NoRead.inv_cancelBegin {st : SeqState} (hst : s.st = st) {tag : Tag} {cause : Status}
    (hfailure : (tag, cause, st) ∈ failureTriples) : Inv (cancelBegin tag cause s) := by
  obtain ⟨hnow, _, hq⟩ := h.timeWidth
  exact
    { h with
      queueBound := h.room.le
      seqRead := h.noRead
      resultIdle := fun hvalid => absurd (h.noResult.symm.trans hvalid) Bool.false_ne_true
      idleResult := nofun
      lengthBound := nofun
      timeWidth := ⟨hnow, fits_timeValue _ _, hq⟩
      markerCaptured := nofun
      lengthCaptured := nofun
      bodyCaptured := nofun
      heldFailure := fun _ => by subst hst; exact hfailure }

/-- The successful end (R198). -/
theorem NoRead.inv_finishOk : Inv (finishOk s) :=
  { h with
    queueBound := h.room.le
    seqRead := h.noRead
    resultIdle := fun _ => rfl
    idleResult := fun _ _ => rfl
    lengthBound := nofun
    markerCaptured := nofun
    lengthCaptured := nofun
    bodyCaptured := nofun
    heldFailure := nofun
    result := ⟨nofun, fun _ _ => ⟨rfl, rfl, rfl, okRes_blen h.bodyBound, h.bodyBound⟩, nofun⟩ }
end

/-- When the sequencer's read leaves the queue, there is room for the next, and the read was its stage's (R47 d). -/
theorem Inv.withoutHead_seq {s : State} (h : Inv s) {e : Entry} {rest : List Entry} (hq : s.q = e :: rest) (hcid : e.cid = .seq) :
    NoRead (withoutHead e rest s) ∧ stageReads s.st s.rlen = [(e.requested, e.v)] := by
  obtain ⟨hnow, hcdl, hdl⟩ := h.timeWidth
  have hbound := h.queueBound
  have hbehind := h.behindHead
  have hreads := h.seqRead
  rw [hq] at hdl hbound hbehind hreads
  rw [seqReads_cons_seq hcid] at hreads
  obtain ⟨hnone, hidle, _⟩ := stageReads_tail hreads
  refine ⟨?_, by rw [← hreads, hnone]⟩
  exact
    { h with
      room := hbound
      behindHead := fun x hx => hbehind x (List.mem_of_mem_tail hx)
      noRead := hnone
      noResult := Bool.eq_false_iff.mpr fun hvalid => hidle (h.resultIdle hvalid)
      timeWidth := ⟨hnow, hcdl, fun x hx => hdl x (List.mem_cons_of_mem e hx)⟩
      accBound := h.accBound_drop e.need }

/-! ### Every reaction -/

/-- Five bytes that pass `V_PFX` are the preamble and two more. -/
theorem header_of_vPfx {bytes : Bytes} (hlen : bytes.length = 5) (hpass : evalValidator vPfx bytes = true) :
    ∃ len lcs : Byte, bytes = [0x00, 0x00, 0xFF, len, lcs] := by
  obtain ⟨b0, b1, b2, len, lcs, more, rfl⟩ := exists_five hlen.ge
  obtain rfl : more = [] := by simpa using hlen
  obtain ⟨rfl, rfl, rfl⟩ : b0 = 0x00 ∧ b1 = 0x00 ∧ b2 = 0xFF := by simpa [evalValidator_vPfx, preamble] using hpass
  exact ⟨len, lcs, rfl⟩

section
variable {s : State} (h : NoRead s)
include h

theorem NoRead.inv_reactAck (hst : s.st = .wAck) (status : Status) (bytes : Bytes) : Inv (reactAck status bytes s) := by
  cases status with
  | ok => exact h.inv_seqRead rfl (captures_of_early (.inr rfl))
  | timeout => exact h.inv_cancelBegin hst (by decide)
  | checkFailed => exact h.inv_cancelBegin hst (by decide)

/-- A header with the preamble: the marker, a good LCS, or a bad one. -/
theorem NoRead.inv_reactHdr_ok (hst : s.st = .wHdr) (len lcs : Byte) : Inv (reactHdr .ok [0x00, 0x00, 0xFF, len, lcs] s) := by
  by_cases hmarker : len = 0xFF ∧ lcs = 0xFF
  · obtain ⟨rfl, rfl⟩ := hmarker
    have hcap : Captures { s with hdr := [0x00, 0x00, 0xFF, 0xFF, 0xFF], extf := true, st := .wExt } :=
      ⟨nofun, fun _ => ⟨rfl, rfl⟩, nofun, nofun⟩
    exact (h.withHdr rfl true).inv_seqRead rfl hcap
  · by_cases hlcs : (len.toNat + lcs.toNat) % 256 = 0
    · have hrlen : (BitVec.ofNat 16 len.toNat).toNat = len.toNat := Nat.mod_eq_of_lt (len.isLt.trans (by decide))
      have hcap : Captures { s with
          hdr := [0x00, 0x00, 0xFF, len, lcs], extf := false, rlen := BitVec.ofNat 16 len.toNat, st := .wBody } :=
        ⟨fun _ => hrlen.trans_le ((Nat.le_of_lt len.isLt).trans (by decide)), nofun,
          fun _ => .inl ⟨len, lcs, rfl, rfl, hmarker, hlcs, hrlen⟩, nofun⟩
      rw [reactHdr_normal hmarker hlcs]
      exact ((h.withHdr rfl false).withRlen _).inv_seqRead (congrArg (fun n => [(n, Validator.none)]) hrlen) hcap
    · rw [reactHdr_badLcs hmarker hlcs]
      exact (h.withHdr rfl false).inv_cancelBegin hst (by decide)

theorem NoRead.inv_reactHdr (hst : s.st = .wHdr) {status : Status} {bytes : Bytes}
    (hok : status = .ok → bytes.length = 5 ∧ evalValidator vPfx bytes = true) : Inv (reactHdr status bytes s) := by
  cases status with
  | ok =>
    obtain ⟨hlen, hpass⟩ := hok rfl
    obtain ⟨len, lcs, rfl⟩ := header_of_vPfx hlen hpass
    exact h.inv_reactHdr_ok hst len lcs
  | timeout => exact h.inv_cancelBegin hst (by decide)
  | checkFailed => exact h.inv_cancelBegin hst (by decide)

/-- Three length bytes: a bad checksum, a length too long, or a length (R186, U1). -/
theorem NoRead.inv_reactExt_ok (hst : s.st = .wExt) (hcap : Captures s) (hi lo lcs : Byte) :
    Inv (reactExt .ok [hi, lo, lcs] s) := by
  have hseen := h.withExtb (extb := [hi, lo, lcs]) rfl
  have hlength := hseen.withRlen (BitVec.ofNat 16 (256 * hi.toNat + lo.toNat))
  by_cases hlcs : (hi.toNat + lo.toNat + lcs.toNat) % 256 = 0
  · rcases Nat.lt_or_ge 265 (256 * hi.toNat + lo.toNat) with hlong | hle
    · rw [reactExt_tooLong hlcs hlong]
      exact hlength.inv_cancelBegin hst (by decide)
    · obtain ⟨hhdr, hextf⟩ := hcap.markerCaptured hst
      have hrlen := toNat_bigEndian hi lo
      have hcap' : Captures { s with
          extb := [hi, lo, lcs], rlen := BitVec.ofNat 16 (256 * hi.toNat + lo.toNat), st := .wBody } :=
        ⟨fun _ => hrlen.trans_le hle, nofun, fun _ => .inr ⟨hhdr, hextf, hi, lo, lcs, rfl, hlcs, hrlen⟩, nofun⟩
      rw [reactExt_fits hlcs hle]
      exact hlength.inv_seqRead (congrArg (fun n => [(n, Validator.none)]) hrlen) hcap'
  · rw [reactExt_badLcs hlcs]
    exact hseen.inv_cancelBegin hst (by decide)

theorem NoRead.inv_reactExt (hst : s.st = .wExt) (hcap : Captures s) {status : Status} {bytes : Bytes}
    (hok : status = .ok → bytes.length = 3) : Inv (reactExt status bytes s) := by
  cases status with
  | ok =>
    obtain ⟨hi, lo, lcs, rfl⟩ := List.length_eq_three.mp (hok rfl)
    exact h.inv_reactExt_ok hst hcap hi lo lcs
  | timeout => exact h.inv_cancelBegin hst (by decide)
  | checkFailed => exact h.inv_cancelBegin hst (by decide)

theorem NoRead.inv_reactBody (hst : s.st = .wBody) (hcap : Captures s) {status : Status} {bytes : Bytes}
    (hok : status = .ok → bytes.length = s.rlen.toNat) : Inv (reactBody status bytes s) := by
  cases status with
  | ok =>
    have hrlen := hcap.lengthBound (.inl hst)
    have hcap' : Captures { s with body := bytes, bdcs := csum bytes, st := .wTrl } :=
      ⟨fun _ => hrlen, nofun, fun _ => hcap.lengthCaptured (.inl hst), fun _ => ⟨hok rfl, rfl⟩⟩
    exact (h.withBody ((hok rfl).trans_le hrlen) (csum bytes)).inv_seqRead rfl hcap'
  | timeout => exact h.inv_cancelBegin hst (by decide)
  | checkFailed => exact h.inv_cancelBegin hst (by decide)

theorem NoRead.inv_reactTrl (hst : s.st = .wTrl) (status : Status) (bytes : Bytes) : Inv (reactTrl status bytes s) := by
  cases status with
  | ok =>
    by_cases htrailer : bytes = [s.bdcs, 0x00]
    · subst htrailer
      cases hverdict : evalValidator s.cv s.body with
      | true => rw [reactTrl_accepted hverdict]; exact h.inv_finishOk
      | false => rw [reactTrl_rejected hverdict]; exact h.inv_cancelBegin hst (by decide)
    · rw [reactTrl_badTrailer htrailer]
      exact h.inv_cancelBegin hst (by decide)
  | timeout => exact h.inv_cancelBegin hst (by decide)
  | checkFailed => exact h.inv_cancelBegin hst (by decide)

/-- The reaction of a stage to the end of its read, of which an `ok` has the length it asked for and a passed validator. -/
theorem NoRead.inv_react {n : Nat} {v : Validator} (hcap : Captures s) (hreads : stageReads s.st s.rlen = [(n, v)])
    {status : Status} {bytes : Bytes} (hok : status = .ok → bytes.length = n ∧ evalValidator v bytes = true) :
    Inv (react status bytes s) := by
  cases hst : s.st <;> rw [hst] at hreads <;> cases hreads
  case wAck => rw [react_of_wAck _ _ hst]; exact h.inv_reactAck hst status bytes
  case wHdr => rw [react_of_wHdr _ _ hst]; exact h.inv_reactHdr hst hok
  case wExt => rw [react_of_wExt _ _ hst]; exact h.inv_reactExt hst hcap fun hs => (hok hs).1
  case wBody => rw [react_of_wBody _ _ hst]; exact h.inv_reactBody hst hcap fun hs => (hok hs).1
  case wTrl => rw [react_of_wTrl _ _ hst]; exact h.inv_reactTrl hst status bytes
end

/-! ### Every step -/

theorem Inv.served {s : State} (h : Inv s) : Inv (served s) := by
  cases servedCase s with
  | empty hq hs => rw [hs]; exact h.advance
  | waits e rest hq hshort hearly hs => rw [hs]; exact h.advance.withWaitingHead hq hshort
  | raw e rest k status bytes hq hcid hends hs => rw [hs]; exact (h.advance.withoutHead_raw hq hcid).emitEvt _
  | seq e rest status bytes hq hcid hends hs =>
    obtain ⟨hnone, hreads⟩ := h.advance.withoutHead_seq hq hcid
    have hcap : Captures (withoutHead e rest (Machine.advance s)) := { h.captures with }
    rw [hs]
    refine hnone.inv_react hcap hreads fun hstatus => ?_
    subst hstatus
    obtain ⟨hlen, hpass, _⟩ := hends.of_ok
    exact ⟨hlen, hpass⟩

theorem served_st_of_cancelWait {s : State} (hst : s.st = .cancelWait) : (served s).st = .cancelWait := by
  obtain ⟨l, hdeliver, _⟩ := deliver_cancelWait (service (advance s)).2 (s := (service (advance s)).1) (by simp [hst])
  rw [served, hdeliver]
  simp [hst]

theorem Inv.tick {s : State} (h : Inv s) : Inv (tick s) := by
  by_cases hdue : CancelDue s
  · rw [tick_of_cancelDue hdue]
    exact h.served.cancelFinish (served_st_of_cancelWait hdue.1)
  · rw [tick_of_not_cancelDue hdue]
    exact h.served

/-- An accepted EXEC clears the result and the captures, and waits for the ACK (R182). -/
theorem Inv.startTxn {s : State} (h : Inv s) (hst : s.st = .idle) {cmd : Bytes} (hcmd : cmd.length ≤ s.cfg.cmdCap)
    (hroom : s.q.length < s.cfg.qDepth) (v : Validator) : Inv (startTxn cmd v s) := by
  have hreads := h.seqRead
  rw [hst] at hreads
  have hnone : NoRead (Machine.emitTx (enc cmd) (emitFlush { s with
      res := Res.zero, cmd := cmd, cv := v, hdr := [], extb := [], rlen := 0, extf := false, body := [], bdcs := 0x00 })) :=
    { h with
      room := hroom
      noRead := hreads
      noResult := rfl
      cmdBound := hcmd
      hdrLength := .inl rfl
      extbLength := .inl rfl
      bodyBound := Nat.zero_le _
      result := ⟨fun _ => rfl, nofun, nofun⟩ }
  exact hnone.inv_seqRead rfl (captures_of_early (.inl rfl))

/-- Settles O46: event by event, each operation keeps the invariants. -/
theorem stepKeepsTheInvariants : Obligations.StepKeepsTheInvariants := by
  intro s t h hstep
  cases step_cases hstep with
  | idle hq => exact h
  | reader bs l hq => exact (h.withInq l).withTpend _
  | noDelivery n l hq hn => exact h.withInq l
  | delivery n l hq hpos hle => exact (((h.withInq l).withTpend _).receive _).answer _
  | chunk c l hq => exact ((h.withInq l).receive c).answer _
  | tick l hq => exact (h.withInq l).tick.answer _
  | refused _ l r hq h0 h3 hf => exact (h.withInq l).answer _
  | nop _ l hq hop => exact (h.withInq l).answer _
  | exec _ l v hq hop hload hst hcmd hroom => exact ((h.withInq l).startTxn hst hcmd hroom v).answer _
  | enq _ l v hq hop hload hroom => exact (((h.withInq l).withTkt _).enqueue_raw hroom _ v _ s.tkt).answer _
  | cfgw hc l hq hop => exact ((h.withInq l).withTimeoutMs hc.value).answer _
  | reset _ l hq hop => exact ((((inv_resetWith h.legal).withInq l).withTpend s.tpend).withFree s.free).answer _

end Sys2Proof.Machine
end

section
/-! PROOF. What a success has passed (R188, R198, R201, R280). -/

namespace Sys2Proof.Machine

/-- A `DONE` comes from a tick, and is among what `TickCompletions` says of it. -/
theorem step_done {s t : State} {l : List EvtItem} {r : Res} (hstep : step s = .next t) (hevt : t.evt = s.evt ++ l)
    (hr : .done r ∈ l) :
    ∃ es raws dones, s.inq = .tick :: es ∧ t = answer .none (tick { s with inq := es }) ∧ l = raws ++ dones ∧
      TickCompletions { s with inq := es } raws dones t.res ∧ .done r ∈ dones := by
  obtain ⟨es, hq, rfl⟩ | ⟨_, hempty⟩ | hsame := step_evt_cases hstep
  · obtain ⟨raws, dones, hadded, hadds⟩ := tick_completions { s with inq := es }
    rw [List.append_assoc] at hadded
    have hl : l = raws ++ dones := List.append_cancel_left (hevt.symm.trans hadded)
    exact ⟨es, raws, dones, hq, rfl, hl, hadds, (List.mem_append.mp (hl ▸ hr)).resolve_left (hadds.rawDones.done_notMem r)⟩
  · rw [hevt, List.append_eq_nil_iff] at hempty
    exact absurd hr (hempty.2 ▸ List.not_mem_nil)
  · rw [hevt, List.append_right_eq_self] at hsame
    exact absurd hr (hsame ▸ List.not_mem_nil)

/-- A `DONE` of a success is the one of `finish_ok`, in `W_TRL`, and the tick completes nothing else. -/
theorem TickCompletions.of_done_ok {s : State} {raws dones : List EvtItem} {res r : Res}
    (h : TickCompletions s raws dones res) (hr : .done r ∈ dones) (hok : r.ok = true) :
    s.st = .wTrl ∧ r = okRes s ∧ res = r ∧ raws = [] ∧ dones = [.done r] := by
  cases h with
  | noDone _ => cases hr
  | success hst =>
    cases List.mem_singleton.mp hr
    exact ⟨hst, rfl, rfl, rfl, rfl⟩
  | failure _ _ =>
    cases List.mem_singleton.mp hr
    cases hok

/-- A tick in `W_TRL` with a `DONE` has read the body's trailer, and the caller's validator accepts the body (R188). -/
theorem tick_of_done {s : State} (hst : s.st = .wTrl) {r : Res} (hevt : (tick s).evt = s.evt ++ [.done r]) :
    ∃ e rest, s.q = e :: rest ∧ e.cid = .seq ∧ ReadEnds e (advance s) .ok [s.bdcs, 0x00] ∧
      evalValidator s.cv s.body = true ∧ tick s = finishOk (withoutHead e rest (advance s)) := by
  have hserved : tick s = served s := tick_of_not_cancelDue fun hdue => nomatch hst.symm.trans hdue.1
  have hquiet {t : State} (ht : tick s = t) (htevt : t.evt = s.evt) : False := by
    rw [ht, htevt] at hevt
    simp at hevt
  cases servedCase s with
  | empty hq h => exact (hquiet (hserved.trans h) rfl).elim
  | waits e rest hq hshort hearly h => exact (hquiet (hserved.trans h) rfl).elim
  | raw e rest k status bytes hq hcid hends h =>
    rw [hserved, h] at hevt
    cases List.append_cancel_left hevt
  | seq e rest status bytes hq hcid hends h =>
    have htick := hserved.trans h
    obtain ⟨_, hreact⟩ | ⟨tag, cause, s1, _, ⟨_, _, _, _, _, _, rfl⟩, _, hreact⟩ |
      ⟨n, v, st, s1, _, ⟨_, _, _, _, _, _, rfl⟩, _, hreact⟩ | ⟨_, hok, hbytes, hverdict, hreact⟩ :=
      react_cases status bytes (withoutHead e rest (advance s))
    · exact (hquiet (htick.trans hreact) rfl).elim
    · exact (hquiet (htick.trans hreact) rfl).elim
    · exact (hquiet (htick.trans hreact) rfl).elim
    · subst hok hbytes
      exact ⟨e, rest, hq, hcid, hends, hverdict, htick.trans hreact⟩

/-- Settles O53: the tick is `finishOk` behind the trailer read; what was captured before it, `Inv` says. -/
theorem successHasPassedEveryCheckAfterTheAck : Obligations.SuccessHasPassedEveryCheckAfterTheAck := by
  intro s t l r hinv hstep hevt hr hok
  obtain ⟨es, raws, dones, hq, rfl, rfl, hadds, hdone⟩ := step_done hstep hevt hr
  obtain ⟨hst, rfl, hres, rfl, rfl⟩ := hadds.of_done_ok hdone hok
  obtain ⟨e, rest, he, hcid, hends, hverdict, htick⟩ := tick_of_done hst hevt
  obtain ⟨_, _, hbytes⟩ := hends.of_ok
  obtain ⟨hlen, hdcs⟩ := hinv.bodyCaptured hst
  have hcaptured : headerPassed s := hinv.lengthCaptured (.inr hst)
  rw [htick]
  refine ⟨by simp [hq], hst, rfl, rfl, rfl, okRes_blen hinv.bodyBound, hlen, hinv.bodyBound, hverdict, rfl, ?_,
    e, rest, he, hcid, rfl, ?_⟩
  · obtain ⟨len, lcs, hhdr, hextf, hmarker, hsum, hrlen⟩ | ⟨hhdr, hextf, hi, lo, lcs, hextb, hsum, hrlen⟩ := hcaptured
    · exact .inl ⟨len, lcs, hhdr, hextf, hmarker, hsum, hlen.trans hrlen⟩
    · exact .inr ⟨hhdr, hextf, hi, lo, lcs, hextb, hsum, hlen.trans hrlen⟩
  · exact hbytes.symm.trans (congrArg (fun d => [d, 0x00] ++ s.acc.drop e.need) hdcs)

end Sys2Proof.Machine
end

section
/-! PROOF. Termination (R202): every read of a transaction ends within the ticks of its timeout, and the cancel wait within its
own. -/

namespace Sys2Proof.Machine

/-! ### Ticks and times -/

theorem ticksFor_pos (tickMs ms : Nat) : 0 < ticksFor tickMs ms := Nat.le_max_left _ _

theorem le_ticksFor_mul {tickMs : Nat} (h : 0 < tickMs) (ms : Nat) : ms ≤ ticksFor tickMs ms * tickMs := by
  have hceil : ms + tickMs - 1 < (ms + tickMs - 1) / tickMs * tickMs + tickMs := Nat.lt_div_mul_add h
  have hmax : (ms + tickMs - 1) / tickMs * tickMs ≤ ticksFor tickMs ms * tickMs :=
    Nat.mul_le_mul_right _ (Nat.le_max_right _ _)
  omega

/-- The ticks a transaction started in `s` may take: five reads, and the cancel wait (R202). -/
def tickBudget (s : State) (limit : Nat) : Nat :=
  5 * ticksFor s.cfg.tickMs limit + ticksFor s.cfg.tickMs s.cfg.cancelWaitMs

/-- The start of the tick with number `k`, counted from `s`. -/
def tickTime (s : State) (k : Nat) : Nat := s.now + k * s.cfg.tickMs

theorem tickTime_succ (s : State) (k : Nat) : tickTime s k + s.cfg.tickMs = tickTime s (k + 1) := by
  simp only [tickTime, Nat.succ_mul, Nat.add_assoc]

/-- A wait of `ms` milliseconds is over `ticksFor` ticks later (R202). -/
theorem tickTime_add_le {s : State} (h : 0 < s.cfg.tickMs) (k : Nat) {ms limit : Nat} (hms : ms ≤ limit) :
    tickTime s k + ms ≤ tickTime s (k + ticksFor s.cfg.tickMs limit) := by
  have hticks := le_ticksFor_mul h limit
  simp only [tickTime, Nat.add_mul]
  omega

theorem lt_of_tickTime_lt {s : State} {k n : Nat} (h : tickTime s k < tickTime s n) : k < n :=
  Nat.lt_of_mul_lt_mul_right (Nat.lt_of_add_lt_add_left h)

/-- `NOW` and the deadlines set from it do not wrap while the transaction runs (R130). -/
def NoWrap (s : State) (limit : Nat) : Prop :=
  Fits s.cfg (tickTime s (tickBudget s limit) + max limit s.cfg.cancelWaitMs)

theorem NoWrap.timeValue_eq {s : State} {limit k ms : Nat} (h : NoWrap s limit) (hk : k ≤ tickBudget s limit)
    (hms : ms ≤ max limit s.cfg.cancelWaitMs) : timeValue s.cfg (tickTime s k + ms) = tickTime s k + ms :=
  timeValue_of_fits (h.mono (Nat.add_le_add (Nat.add_le_add_left (Nat.mul_le_mul_right _ hk) _) hms))

/-! ### Each reaction leaves fewer reads -/

/-- The reads that a transaction still waits for, at most (R180). -/
def readsLeft : SeqState → Nat
  | .idle => 0
  | .wAck => 5
  | .wHdr => 4
  | .wExt => 3
  | .wBody => 2
  | .wTrl => 1
  | .cancelWait => 0

/-- The states a reaction goes to (R181). -/
def nextStates : SeqState → List SeqState
  | .idle => []
  | .wAck => [.wHdr, .cancelWait]
  | .wHdr => [.wExt, .wBody, .cancelWait]
  | .wExt => [.wBody, .cancelWait]
  | .wBody => [.wTrl, .cancelWait]
  | .wTrl => [.idle, .cancelWait]
  | .cancelWait => []

theorem readsLeft_lt_of_mem_nextStates {st st' : SeqState} (h : st' ∈ nextStates st) : readsLeft st' < readsLeft st := by
  revert st'
  cases st <;> decide

theorem reactAck_st_mem (status : Status) (bytes : Bytes) (s : State) : (reactAck status bytes s).st ∈ nextStates .wAck := by
  cases status <;> simp [reactAck, nextStates]

theorem reactHdr_st_mem (status : Status) (bytes : Bytes) (s : State) : (reactHdr status bytes s).st ∈ nextStates .wHdr := by
  cases status with
  | ok => simp only [reactHdr, headerSeen]; split_ifs <;> simp [nextStates]
  | timeout | checkFailed => simp [reactHdr, nextStates]

theorem reactExt_st_mem (status : Status) (bytes : Bytes) (s : State) : (reactExt status bytes s).st ∈ nextStates .wExt := by
  cases status with
  | ok => simp only [reactExt, extSeen]; split_ifs <;> simp [nextStates]
  | timeout | checkFailed => simp [reactExt, nextStates]

theorem reactBody_st_mem (status : Status) (bytes : Bytes) (s : State) : (reactBody status bytes s).st ∈ nextStates .wBody := by
  cases status <;> simp [reactBody, nextStates]

theorem reactTrl_st_mem (status : Status) (bytes : Bytes) (s : State) : (reactTrl status bytes s).st ∈ nextStates .wTrl := by
  cases status with
  | ok => simp only [reactTrl, trailerSeen]; split_ifs <;> simp [nextStates]
  | timeout | checkFailed => simp [reactTrl, nextStates]

theorem react_st_mem {s : State} (hwait : waiting s.st = true) (status : Status) (bytes : Bytes) :
    (react status bytes s).st ∈ nextStates s.st := by
  cases hst : s.st <;> rw [hst] at hwait
  case idle => cases hwait
  case cancelWait => cases hwait
  case wAck => rw [react_of_wAck _ _ hst]; exact reactAck_st_mem status bytes s
  case wHdr => rw [react_of_wHdr _ _ hst]; exact reactHdr_st_mem status bytes s
  case wExt => rw [react_of_wExt _ _ hst]; exact reactExt_st_mem status bytes s
  case wBody => rw [react_of_wBody _ _ hst]; exact reactBody_st_mem status bytes s
  case wTrl => rw [react_of_wTrl _ _ hst]; exact reactTrl_st_mem status bytes s

theorem readsLeft_react_lt {s : State} (hwait : waiting s.st = true) (status : Status) (bytes : Bytes) :
    readsLeft (react status bytes s).st < readsLeft s.st :=
  readsLeft_lt_of_mem_nextStates (react_st_mem hwait status bytes)

/-! ### A running transaction -/

/-- Where a transaction stands before tick `k + 1`. A read ends by tick `a`, and the reads behind it fit in what is left of five
times the ticks of a read; a cancel wait ends by tick `c`. -/
inductive Progress (s : State) (limit k : Nat) (u : State) : Prop where
  | reading (e : Entry) (a : Nat) (hwait : waiting u.st = true) (hq : u.q = [e]) (hcid : e.cid = .seq)
      (hdeadline : e.deadline ≤ tickTime s a) (hk : k < a)
      (hleft : a + readsLeft u.st * ticksFor s.cfg.tickMs limit ≤ 6 * ticksFor s.cfg.tickMs limit)
  | cancelling (c : Nat) (hst : u.st = .cancelWait) (hq : u.q = []) (hcdl : u.cdl ≤ tickTime s c) (hk : k < c)
      (hleft : c ≤ tickBudget s limit)

/-- `u` is a state of the transaction started in `s`, `k` ticks later. -/
structure Running (s : State) (limit k : Nat) (u : State) : Prop where
  cfg : u.cfg = s.cfg
  timeout : u.timeoutMs.toNat ≤ limit
  now : u.now = tickTime s k
  evt : u.evt = s.evt
  progress : Progress s limit k u

/-- The transaction started in `s` has ended, with one `DONE`, whose record `RES` holds. -/
def Ended (s t : State) : Prop := t.st = .idle ∧ t.res.valid = true ∧ t.evt = s.evt ++ [.done t.res]

theorem le_of_readsLeft {st : SeqState} (hwait : waiting st = true) {a j : Nat} (h : a + readsLeft st * j ≤ 6 * j) :
    a ≤ 5 * j := by
  have hone : 1 ≤ readsLeft st := by cases st <;> revert hwait <;> decide
  have hmul : 1 * j ≤ readsLeft st * j := Nat.mul_le_mul_right j hone
  omega

section
variable {s u : State} {limit k : Nat} (h : Running s limit k u)
include h

/-- A transaction that runs has ticks left. -/
theorem Running.lt_budget : k < tickBudget s limit := by
  cases h.progress with
  | reading e a hwait hq hcid hdeadline hk hleft =>
    have := le_of_readsLeft hwait hleft
    simp only [tickBudget]
    omega
  | cancelling c hst hq hcdl hk hleft => exact hk.trans_le hleft

theorem Running.advance_now (hwrap : NoWrap s limit) : (advance u).now = tickTime s (k + 1) := by
  rw [Machine.advance_now, h.cfg, h.now, tickTime_succ]
  exact hwrap.timeValue_eq h.lt_budget (Nat.zero_le _)

/-- A tick that leaves time and the record of the transaction as they are, but for `NOW`. -/
theorem Running.of_progress (hwrap : NoWrap s limit) {t : State} (hcfg : t.cfg = u.cfg) (htimeout : t.timeoutMs = u.timeoutMs)
    (hnow : t.now = (advance u).now) (hevt : t.evt = u.evt) (hprogress : Progress s limit (k + 1) t) :
    Running s limit (k + 1) t :=
  ⟨hcfg.trans h.cfg, htimeout ▸ h.timeout, hnow.trans (h.advance_now hwrap), hevt.trans h.evt, hprogress⟩

/-- A wait that the tick starts is over `ticksFor` ticks later. -/
theorem Running.deadline_le (hpos : 0 < s.cfg.tickMs) (hwrap : NoWrap s limit) {ms bound : Nat} (hms : ms ≤ bound)
    (hmax : ms ≤ max limit s.cfg.cancelWaitMs) :
    timeValue u.cfg ((advance u).now + ms) ≤ tickTime s (k + 1 + ticksFor s.cfg.tickMs bound) := by
  rw [h.cfg, h.advance_now hwrap, hwrap.timeValue_eq h.lt_budget hmax]
  exact tickTime_add_le hpos (k + 1) hms

/-- When the read has ended, the reaction asks for the next read, starts the cancel wait, or is the end. -/
theorem Running.react (hpos : 0 < s.cfg.tickMs) (hwrap : NoWrap s limit) {a : Nat} (hwait : waiting u.st = true) (hk : k < a)
    (hleft : a + readsLeft u.st * ticksFor s.cfg.tickMs limit ≤ 6 * ticksFor s.cfg.tickMs limit) (e : Entry) (status : Status)
    (bytes : Bytes) :
    Running s limit (k + 1) (react status bytes (withoutHead e [] (advance u))) ∨
      Ended s (react status bytes (withoutHead e [] (advance u))) := by
  have hfewer : readsLeft (Machine.react status bytes (withoutHead e [] (advance u))).st < readsLeft u.st :=
    readsLeft_react_lt (s := withoutHead e [] (advance u)) hwait status bytes
  obtain ⟨hidle, hreact⟩ | ⟨tag, cause, s1, _, ⟨_, _, _, _, _, _, rfl⟩, _, hreact⟩ |
    ⟨n, v, st, s1, _, ⟨_, _, _, _, _, _, rfl⟩, hreads, hreact⟩ | ⟨_, _, _, _, hreact⟩ :=
    react_cases status bytes (withoutHead e [] (advance u)) <;> rw [hreact] at hfewer ⊢
  · exact absurd (hwait.symm.trans hidle) nofun
  · have ha := le_of_readsLeft hwait hleft
    have hcdl := h.deadline_le hpos hwrap (congrArg Config.cancelWaitMs h.cfg).le
      ((congrArg Config.cancelWaitMs h.cfg).trans_le (Nat.le_max_right _ _))
    refine .inl (h.of_progress hwrap rfl rfl rfl rfl
      (.cancelling _ rfl rfl hcdl (Nat.lt_add_of_pos_right (ticksFor_pos _ _)) ?_))
    simp only [tickBudget]
    omega
  · have hdeadline := h.deadline_le hpos hwrap h.timeout (h.timeout.trans (Nat.le_max_left _ _))
    have hwaits := waiting_of_stageReads hreads.symm
    refine .inl (h.of_progress hwrap rfl rfl rfl rfl
      (.reading _ _ hwaits rfl rfl hdeadline (Nat.lt_add_of_pos_right (ticksFor_pos _ _)) ?_))
    have hmul : (readsLeft st + 1) * ticksFor s.cfg.tickMs limit ≤ readsLeft u.st * ticksFor s.cfg.tickMs limit :=
      Nat.mul_le_mul_right _ hfewer
    rw [Nat.succ_mul] at hmul
    change k + 1 + ticksFor s.cfg.tickMs limit + readsLeft st * ticksFor s.cfg.tickMs limit ≤ 6 * ticksFor s.cfg.tickMs limit
    omega
  · exact .inr ⟨rfl, rfl, congrArg (· ++ _) h.evt⟩

/-- A tick leaves the transaction running, or ends it within its ticks. -/
theorem Running.tick (hpos : 0 < s.cfg.tickMs) (hwrap : NoWrap s limit) :
    Running s limit (k + 1) (tick u) ∨ Ended s (tick u) := by
  cases h.progress with
  | reading e a hwait hq hcid hdeadline hk hleft =>
    have hdue : ¬ CancelDue u := fun hdue => by
      have hst := hdue.1
      rw [hst] at hwait
      cases hwait
    rw [tick_of_not_cancelDue hdue]
    cases servedCase u with
    | empty hq' _ => cases hq.symm.trans hq'
    | raw e' _ _ _ _ hq' hcid' _ _ =>
      cases hq.symm.trans hq'
      cases hcid.symm.trans hcid'
    | waits e' rest hq' hshort hearly hs =>
      cases hq.symm.trans hq'
      have hnow : timeValue u.cfg (u.now + u.cfg.tickMs) = tickTime s (k + 1) := h.advance_now hwrap
      have hlater : k + 1 < a := lt_of_tickTime_lt (hnow ▸ hearly.trans_le hdeadline)
      rw [hs]
      exact .inl (h.of_progress hwrap rfl rfl rfl rfl (.reading _ a hwait rfl hcid hdeadline hlater hleft))
    | seq e' rest status bytes hq' hcid' hends hs =>
      cases hq.symm.trans hq'
      rw [hs]
      exact h.react hpos hwrap hwait hk hleft e status bytes
  | cancelling c hst hq hcdl hk hleft =>
    have hserved : served u = advance u := by rw [served_of_service (service_of_empty (s := advance u) hq), deliver_none]
    by_cases hdue : CancelDue u
    · rw [tick_of_cancelDue hdue, hserved]
      exact .inr ⟨rfl, rfl, congrArg (· ++ _) h.evt⟩
    · have hnow : timeValue u.cfg (u.now + u.cfg.tickMs) = tickTime s (k + 1) := h.advance_now hwrap
      have hearly : tickTime s (k + 1) < u.cdl := by
        rw [← hnow]
        exact Nat.not_le.mp fun hover => hdue ⟨hst, hover⟩
      rw [tick_of_not_cancelDue hdue, hserved]
      exact .inl (h.of_progress hwrap rfl rfl rfl rfl
        (.cancelling c hst hq hcdl (lt_of_tickTime_lt (hearly.trans_le hcdl)) hleft))

/-- What leaves the clock, the read and the wait of a transaction leaves it running. -/
theorem Running.of_same {t : State} (hcfg : t.cfg = u.cfg) (htimeout : t.timeoutMs.toNat ≤ limit) (hnow : t.now = u.now)
    (hevt : t.evt = u.evt) (hst : t.st = u.st) (hq : t.q = u.q) (hcdl : t.cdl = u.cdl) : Running s limit k t := by
  refine ⟨hcfg.trans h.cfg, htimeout, hnow.trans h.now, hevt.trans h.evt, ?_⟩
  cases h.progress with
  | reading e a hwait hq' hcid hdeadline hk hleft =>
    exact .reading e a (hst ▸ hwait) (hq.trans hq') hcid hdeadline hk (hst ▸ hleft)
  | cancelling c hst' hq' hcdl' hk hleft => exact .cancelling c (hst.trans hst') (hq.trans hq') (hcdl ▸ hcdl') hk hleft

theorem Running.st_ne_idle : u.st ≠ .idle := fun hidle => by
  cases h.progress with
  | reading e a hwait => rw [hidle] at hwait; cases hwait
  | cancelling c hst => cases hidle.symm.trans hst

/-- The allowed events that are no tick leave the transaction running: EXEC is refused while it runs, and CFGW keeps the limit. -/
theorem Running.step_of_ne_tick {e : Event} (hallowed : allowedBy limit e) (htick : e ≠ .tick) {t : State}
    (hstep : step { u with inq := [e] } = .next t) : Running s limit k t := by
  have hkeep {t : State} := h.of_same (t := t)
  cases step_cases hstep with
  | idle hq => cases hq
  | reader bs l hq => exact hkeep rfl h.timeout rfl rfl rfl rfl rfl
  | noDelivery n l hq hn => exact hkeep rfl h.timeout rfl rfl rfl rfl rfl
  | delivery n l hq hpos hle => exact hkeep rfl h.timeout rfl rfl rfl rfl rfl
  | chunk c l hq => exact hkeep rfl h.timeout rfl rfl rfl rfl rfl
  | tick l hq => cases hq; exact absurd rfl htick
  | refused hc l r hq h0 h3 hf => exact hkeep rfl h.timeout rfl rfl rfl rfl rfl
  | nop hc l hq hop => exact hkeep rfl h.timeout rfl rfl rfl rfl rfl
  | exec hc l v hq hop hload hst => exact absurd hst h.st_ne_idle
  | enq hc l v hq hop =>
    cases hq
    obtain ⟨henq, _, _⟩ := hallowed
    exact absurd hop henq
  | cfgw hc l hq hop =>
    cases hq
    obtain ⟨_, _, hlimit⟩ := hallowed
    exact hkeep rfl (hlimit hop) rfl rfl rfl rfl rfl
  | reset hc l hq hop =>
    cases hq
    obtain ⟨_, hreset, _⟩ := hallowed
    exact absurd hop hreset
end

theorem Running.answer {s u : State} {limit k : Nat} (h : Running s limit k u) (r : Rsp) : Running s limit k (answer r u) :=
  h.of_same rfl h.timeout rfl rfl rfl rfl rfl

/-! ### The whole run -/

theorem tickCount_tick_cons (es : List Event) : tickCount (.tick :: es) = tickCount es + 1 := by simp [tickCount]

theorem tickCount_cons_of_ne {e : Event} (h : e ≠ .tick) (es : List Event) : tickCount (e :: es) = tickCount es := by
  simp [tickCount, h]

theorem runEvents_cons {e : Event} {es : List Event} {u t : State} (h : step { u with inq := [e] } = .next t) :
    runEvents (e :: es) u = runEvents es t := by
  rw [runEvents, h]

/-- A running transaction ends within its ticks, whatever else comes. -/
theorem Running.ends {s : State} {limit : Nat} (hpos : 0 < s.cfg.tickMs) (hwrap : NoWrap s limit) (es : List Event) :
    ∀ {k : Nat} {u : State}, Running s limit k u → (∀ e ∈ es, allowedBy limit e) →
      tickBudget s limit ≤ k + tickCount es →
      ∃ pre t, pre <+: es ∧ runEvents pre u = .next t ∧ Ended s t ∧ k + tickCount pre ≤ tickBudget s limit := by
  induction es with
  | nil => exact fun h _ hticks => absurd h.lt_budget (Nat.not_lt.mpr hticks)
  | cons e es ih =>
    intro k u h hallowed hticks
    obtain ⟨he, hes⟩ := List.forall_mem_cons.mp hallowed
    by_cases htick : e = .tick
    · subst htick
      have hstep : step { u with inq := [.tick] } = _ := step_tick rfl
      have hinq : Running s limit k { u with inq := [] } := h.of_same rfl h.timeout rfl rfl rfl rfl rfl
      rw [tickCount_tick_cons] at hticks
      obtain hrun | hend := hinq.tick hpos hwrap
      · obtain ⟨pre, t, hpre, hruns, hended, hcount⟩ := ih (hrun.answer .none) hes (by omega)
        refine ⟨.tick :: pre, t, List.prefix_cons_inj _ |>.mpr hpre, (runEvents_cons hstep).trans hruns, hended, ?_⟩
        rw [tickCount_tick_cons]
        omega
      · exact ⟨[.tick], _, ⟨es, rfl⟩, runEvents_cons hstep, hend, h.lt_budget⟩
    · obtain ⟨u', hstep⟩ := everyStepAnswersNext { u with inq := [e] }
      rw [tickCount_cons_of_ne htick] at hticks
      obtain ⟨pre, t, hpre, hruns, hended, hcount⟩ := ih (h.step_of_ne_tick he htick hstep) hes hticks
      refine ⟨e :: pre, t, List.prefix_cons_inj _ |>.mpr hpre, (runEvents_cons hstep).trans hruns, hended, ?_⟩
      rwa [tickCount_cons_of_ne htick]

/-- An EXEC that the port accepts starts a transaction (R182). -/
theorem exec_accepted {cmd : Bytes} {va : VArg} {s s0 : State} (hexec : exec (.exec cmd va) s = .next s0)
    (haccepted : s0.rsp = .accepted) :
    ∃ v, loadValidator seqPatCap va = some v ∧ s0 = answer .accepted (startTxn cmd v s) := by
  cases Host.Outcome.next.inj hexec
  obtain ⟨r, hrefuse⟩ | ⟨v, hload, _, _, _, hstart⟩ := hostExec_cases cmd va s
  · rw [hrefuse] at haccepted
    cases haccepted
  · exact ⟨v, hload, hstart⟩

theorem running_startTxn {s : State} (hpos : 0 < s.cfg.tickMs) {limit : Nat} (hwrap : NoWrap s limit) (hq : s.q = [])
    (htimeout : s.timeoutMs.toNat ≤ limit) (cmd : Bytes) (v : Validator) : Running s limit 0 (startTxn cmd v s) := by
  have hnow : s.now = tickTime s 0 := by simp [tickTime]
  have hdeadline : timeValue s.cfg (s.now + s.timeoutMs.toNat) ≤ tickTime s (0 + ticksFor s.cfg.tickMs limit) := by
    rw [hnow, hwrap.timeValue_eq (Nat.zero_le _) (htimeout.trans (Nat.le_max_left _ _))]
    exact tickTime_add_le hpos 0 htimeout
  rw [Nat.zero_add] at hdeadline
  have hread : (startTxn cmd v s).q = [newRead 6 vAck s.timeoutMs .seq s] := by rw [startTxn_q, hq]; rfl
  refine ⟨rfl, htimeout, hnow, rfl, .reading _ _ rfl hread rfl hdeadline (ticksFor_pos _ _) ?_⟩
  change _ + 5 * _ ≤ _
  omega

/-- Settles O59: the transaction runs from its EXEC on, and a running transaction ends within its ticks. -/
theorem transactionTerminates : Obligations.TransactionTerminates := by
  intro cmd va s s0 limit es hlegal hq hexec haccepted htimeout hallowed hfits hticks
  obtain ⟨v, _, rfl⟩ := exec_accepted hexec haccepted
  have hpos : 0 < s.cfg.tickMs := hlegal.1
  have hrun := (running_startTxn hpos hfits hq htimeout cmd v).answer .accepted
  obtain ⟨pre, t, hpre, hruns, ⟨hst, hvalid, hevt⟩, hcount⟩ :=
    hrun.ends hpos hfits es hallowed (by rw [Nat.zero_add]; exact hticks)
  exact ⟨pre, t, t.res, hpre, hruns, hst, rfl, hvalid, hevt, by rwa [Nat.zero_add] at hcount⟩

end Sys2Proof.Machine
end

section
/-! PROOF. A correct response is delivered (R204, R323, R328): tick by tick, each stage takes its piece of the frame. -/

namespace Sys2Proof.Machine

/-! ### One tick of a correct response -/

/-- `u` is a state of the transaction that starts at `s0`, `k` ticks later, with `bytes` still in `ACC` and nothing lost, emitted
or completed. -/
structure OnTrack (s0 : State) (k : Nat) (bytes : Bytes) (u : State) : Prop where
  cfg : u.cfg = s0.cfg
  cv : u.cv = s0.cv
  evt : u.evt = s0.evt
  out : u.out = s0.out
  accOvf : u.accOvf = s0.accOvf
  acc : u.acc = bytes
  now : Fits s0.cfg (tickTime s0 k) → u.now = tickTime s0 k

/-- The one read in the queue is the sequencer's, of `n` bytes, with nothing assembled. -/
def Awaits (n : Nat) (v : Validator) (u : State) : Prop :=
  ∃ deadline, u.q = [{ need := n, acc := [], v := v, deadline := deadline, cid := .seq }]

theorem awaits_seqRead {u : State} (hq : u.q = []) (n : Nat) (v : Validator) : Awaits n v (seqRead n v u) :=
  ⟨_, by rw [seqRead, enqueue_q_eq_newRead, hq]; rfl⟩

theorem OnTrack.advance_now {s0 u : State} {k : Nat} {bytes : Bytes} (h : OnTrack s0 k bytes u)
    (hfits : Fits s0.cfg (tickTime s0 (k + 1))) : (advance u).now = tickTime s0 (k + 1) := by
  have hnow : u.now = tickTime s0 k := h.now (hfits.mono (by rw [← tickTime_succ]; exact Nat.le_add_right _ _))
  rw [Machine.advance_now, h.cfg, hnow, tickTime_succ, timeValue_of_fits hfits]

/-- The state in which the piece has been taken and the stage is to react. -/
structure Taken (s0 : State) (k : Nat) (more : Bytes) (u u1 : State) : Prop extends OnTrack s0 k more u1 where
  q : u1.q = []
  st : u1.st = u.st
  body : u1.body = u.body
  bdcs : u1.bdcs = u.bdcs

/-- A tick takes the piece that the stage waits for, and the stage reacts. -/
theorem OnTrack.tick {s0 u : State} {k n : Nat} {v : Validator} {piece more : Bytes} (h : OnTrack s0 k (piece ++ more) u)
    (hread : Awaits n v u) (hst : u.st ≠ .cancelWait) (hlen : piece.length = n) (hpass : evalValidator v piece = true) :
    ∃ u1, step { u with inq := [.tick] } = .next (answer .none (react .ok piece u1)) ∧ Taken s0 (k + 1) more u u1 := by
  obtain ⟨deadline, hq⟩ := hread
  let e : Entry := { need := n, acc := [], v := v, deadline := deadline, cid := .seq }
  let u' : State := { u with inq := [] }
  have hacc : u'.acc = piece ++ more := h.acc
  have henough : e.need ≤ u'.acc.length := by rw [hacc, List.length_append, hlen]; exact Nat.le_add_right _ _
  have hpiece : u'.acc.take e.need = piece := by rw [hacc]; exact List.take_left' hlen
  have hmore : u'.acc.drop e.need = more := by rw [hacc]; exact List.drop_left' hlen
  have htick : Machine.tick u' = react .ok piece (withoutHead e [] (advance u')) :=
    tick_of_piece_accepted (s := u') hq rfl rfl henough hst hpiece hpass
  refine ⟨withoutHead e [] (advance u'), ?_,
    { h with acc := hmore, now := h.advance_now, q := rfl, st := rfl, body := rfl, bdcs := rfl }⟩
  rw [← htick]
  exact step_tick rfl

/-! ### The stages -/

section
variable {s0 u : State} {k : Nat} {more : Bytes}

/-- `W_ACK` takes the ACK and asks for the header (R184). -/
theorem OnTrack.ack (h : OnTrack s0 k (ackFrame ++ more) u) (hst : u.st = .wAck) (hread : Awaits 6 vAck u) :
    ∃ t, step { u with inq := [.tick] } = .next t ∧ OnTrack s0 (k + 1) more t ∧ t.st = .wHdr ∧ Awaits 5 vPfx t := by
  obtain ⟨u1, hstep, h1⟩ := h.tick hread (by rw [hst]; exact nofun) rfl rfl
  rw [react_of_wAck _ _ (h1.st.trans hst), reactAck_ok] at hstep
  exact ⟨_, hstep, { h1.toOnTrack with }, rfl, awaits_seqRead h1.q 5 vPfx⟩

/-- `W_HDR` takes LEN and its LCS and asks for the body (R185). -/
theorem OnTrack.header_normal {len : Byte} (h : OnTrack s0 k ([0x00, 0x00, 0xFF, len, csum [len]] ++ more) u)
    (hst : u.st = .wHdr) (hread : Awaits 5 vPfx u) :
    ∃ t, step { u with inq := [.tick] } = .next t ∧ OnTrack s0 (k + 1) more t ∧ t.st = .wBody ∧
      Awaits len.toNat .none t := by
  obtain ⟨u1, hstep, h1⟩ := h.tick hread (by rw [hst]; exact nofun) rfl rfl
  have hlcs : (len.toNat + (csum [len]).toNat) % 256 = 0 := byteSum_add_csum [len]
  rw [react_of_wHdr _ _ (h1.st.trans hst), reactHdr_normal (len_lcs_ne_marker len) hlcs] at hstep
  exact ⟨_, hstep, { h1.toOnTrack with }, rfl, awaits_seqRead h1.q len.toNat .none⟩

/-- `W_HDR` takes the marker and asks for the three length bytes (R185, U1). -/
theorem OnTrack.header_extended (h : OnTrack s0 k ([0x00, 0x00, 0xFF, 0xFF, 0xFF] ++ more) u) (hst : u.st = .wHdr)
    (hread : Awaits 5 vPfx u) :
    ∃ t, step { u with inq := [.tick] } = .next t ∧ OnTrack s0 (k + 1) more t ∧ t.st = .wExt ∧ Awaits 3 .none t := by
  obtain ⟨u1, hstep, h1⟩ := h.tick hread (by rw [hst]; exact nofun) rfl rfl
  rw [react_of_wHdr _ _ (h1.st.trans hst), reactHdr_marker] at hstep
  exact ⟨_, hstep, { h1.toOnTrack with }, rfl, awaits_seqRead h1.q 3 .none⟩

/-- `W_EXT` takes the length and its checksum and asks for the body (R186, U1). -/
theorem OnTrack.ext {hi lo : Byte} (h : OnTrack s0 k ([hi, lo, csum [hi, lo]] ++ more) u) (hst : u.st = .wExt)
    (hread : Awaits 3 .none u) (hlen : 256 * hi.toNat + lo.toNat ≤ 265) :
    ∃ t, step { u with inq := [.tick] } = .next t ∧ OnTrack s0 (k + 1) more t ∧ t.st = .wBody ∧
      Awaits (256 * hi.toNat + lo.toNat) .none t := by
  obtain ⟨u1, hstep, h1⟩ := h.tick hread (by rw [hst]; exact nofun) rfl rfl
  have hlcs : (hi.toNat + lo.toNat + (csum [hi, lo]).toNat) % 256 = 0 := byteSum_add_csum [hi, lo]
  rw [react_of_wExt _ _ (h1.st.trans hst), reactExt_fits hlcs hlen] at hstep
  exact ⟨_, hstep, { h1.toOnTrack with }, rfl, awaits_seqRead h1.q _ .none⟩

/-- `W_BODY` takes the body and asks for the trailer (R187). -/
theorem OnTrack.body {p : Bytes} (h : OnTrack s0 k (p ++ more) u) (hst : u.st = .wBody) (hread : Awaits p.length .none u) :
    ∃ t, step { u with inq := [.tick] } = .next t ∧ OnTrack s0 (k + 1) more t ∧ t.st = .wTrl ∧ Awaits 2 .none t ∧
      t.body = p ∧ t.bdcs = csum p := by
  obtain ⟨u1, hstep, h1⟩ := h.tick hread (by rw [hst]; exact nofun) rfl rfl
  rw [react_of_wBody _ _ (h1.st.trans hst), reactBody_ok] at hstep
  exact ⟨_, hstep, { h1.toOnTrack with }, rfl, awaits_seqRead h1.q 2 .none, rfl, rfl⟩
end

/-- The record of a success with the body `p` (R198). -/
def goodRes (p : Bytes) : Res :=
  { valid := true, ok := true, tag := .ok, cause := .ok, stage := .idle, blen := BitVec.ofNat 9 p.length, body := p }

/-- The transaction that starts at `s0` has ended `k` ticks later in a success with the body `p`, and all bytes are taken. -/
structure Delivered (s0 : State) (k : Nat) (p : Bytes) (t : State) : Prop where
  st : t.st = .idle
  res : t.res = goodRes p
  evt : t.evt = s0.evt ++ [.done (goodRes p)]
  out : t.out = s0.out
  acc : t.acc = []
  q : t.q = []
  accOvf : t.accOvf = s0.accOvf
  now : Fits s0.cfg (tickTime s0 k) → t.now = tickTime s0 k

section
variable {s0 u : State} {k : Nat} {p : Bytes} (hpass : evalValidator s0.cv p = true)
include hpass

/-- `W_TRL` takes a good trailer, the caller's validator accepts the body, and the transaction ends (R188, R198). -/
theorem OnTrack.trailer (h : OnTrack s0 k [csum p, 0x00] u) (hst : u.st = .wTrl) (hread : Awaits 2 .none u)
    (hbody : u.body = p) (hbdcs : u.bdcs = csum p) :
    ∃ t, step { u with inq := [.tick] } = .next t ∧ Delivered s0 (k + 1) p t := by
  obtain ⟨u1, hstep, h1⟩ := OnTrack.tick (piece := [csum p, 0x00]) (more := []) h hread (by rw [hst]; exact nofun) rfl rfl
  have hbody1 : u1.body = p := h1.body.trans hbody
  have hverdict : evalValidator u1.cv u1.body = true := by rw [h1.cv, hbody1]; exact hpass
  have hres : okRes u1 = goodRes p := by rw [okRes, hbody1]; rfl
  have hreact : react .ok [csum p, 0x00] u1 = finishOk u1 := by
    rw [react_of_wTrl _ _ (h1.st.trans hst), ← hbdcs, ← h1.bdcs, reactTrl_accepted hverdict]
  rw [hreact] at hstep
  refine ⟨_, hstep, { h1.toOnTrack with st := rfl, res := hres, evt := ?_, q := h1.q }⟩
  rw [answer_evt, finishOk_evt, h1.evt, hres]

/-- Body and trailer, the last two ticks of either form. -/
theorem OnTrack.body_trailer (h : OnTrack s0 k (p ++ [csum p, 0x00]) u) (hst : u.st = .wBody)
    (hread : Awaits p.length .none u) : ∃ t, runEvents [.tick, .tick] u = .next t ∧ Delivered s0 (k + 2) p t := by
  obtain ⟨u1, hstep1, h1, hst1, hread1, hbody, hbdcs⟩ := h.body hst hread
  obtain ⟨t, hstep2, hdelivered⟩ := h1.trailer hpass hst1 hread1 hbody hbdcs
  exact ⟨t, by rw [runEvents_cons hstep1, runEvents_cons hstep2, runEvents], hdelivered⟩

/-- ACK and normal frame in `ACC` are taken in four ticks. -/
theorem OnTrack.response_normal (hlen : p.length ≤ 255) (h : OnTrack s0 0 (ackFrame ++ encn p) u) (hst : u.st = .wAck)
    (hread : Awaits 6 vAck u) : ∃ t, runEvents (List.replicate 4 .tick) u = .next t ∧ Delivered s0 4 p t := by
  have hcount : (BitVec.ofNat 8 p.length).toNat = p.length := Nat.mod_eq_of_lt (Nat.lt_succ_of_le hlen)
  obtain ⟨u1, hstep1, h1, hst1, hread1⟩ := h.ack hst hread
  rw [encn, List.append_assoc] at h1
  obtain ⟨u2, hstep2, h2, hst2, hread2⟩ := h1.header_normal hst1 hread1
  rw [hcount] at hread2
  obtain ⟨t, hrun, hdelivered⟩ := h2.body_trailer hpass hst2 hread2
  exact ⟨t, ((runEvents_cons hstep1).trans (runEvents_cons hstep2)).trans hrun, hdelivered⟩

/-- ACK and extended frame in `ACC` are taken in five ticks (U1). -/
theorem OnTrack.response_extended (hlen : p.length ≤ 265) (h : OnTrack s0 0 (ackFrame ++ encx p) u) (hst : u.st = .wAck)
    (hread : Awaits 6 vAck u) : ∃ t, runEvents (List.replicate 5 .tick) u = .next t ∧ Delivered s0 5 p t := by
  have hcount := lenHi_lenLo (hlen.trans (by decide : 265 ≤ 65535))
  obtain ⟨u1, hstep1, h1, hst1, hread1⟩ := h.ack hst hread
  rw [encx, List.append_assoc] at h1
  obtain ⟨u2, hstep2, h2, hst2, hread2⟩ := OnTrack.header_extended (more := _ :: _ :: _ :: _) h1 hst1 hread1
  obtain ⟨u3, hstep3, h3, hst3, hread3⟩ := OnTrack.ext (more := p ++ _) h2 hst2 hread2 (hcount.trans_le hlen)
  rw [hcount] at hread3
  obtain ⟨t, hrun, hdelivered⟩ := h3.body_trailer hpass hst3 hread3
  exact ⟨t, (((runEvents_cons hstep1).trans (runEvents_cons hstep2)).trans (runEvents_cons hstep3)).trans hrun, hdelivered⟩
end

/-! ### From the EXEC on -/

theorem stands_unique {cap : Nat} {va : VArg} {v v' : Validator} (hload : loadValidator cap va = some v') (hv : Stands va v) :
    v' = v := by
  have hloadable : Loadable cap va := by
    by_contra hnot
    rw [loadValidator_eq_none_iff.mpr hnot] at hload
    cases hload
  exact Option.some.inj (hload.symm.trans (loadValidator_of_stands hloadable hv))

/-- Every legal `ACC_CAP` has room for an ACK and the longest response (R7). -/
theorem receive_of_clean {s : State} (hlegal : s.cfg.Legal) (hacc : s.acc = []) {c : Bytes} (hlen : c.length ≤ 281) :
    receive c s = { s with acc := c } := by
  have hroom : c.length ≤ accRoom s c.length := by
    obtain ⟨_, _, hcap, _⟩ := hlegal
    cases h : s.cfg.accCap with
    | none => rw [accRoom_of_unbounded h]
    | some cap =>
      rw [h] at hcap
      have hmin : 281 ≤ cap := of_decide_eq_true hcap
      rw [accRoom_of_cap h, hacc]
      exact hlen.trans hmin
  rw [receive_of_le_room hroom, hacc, List.nil_append]

/-- ACK and response frame in `ACC` are taken in four ticks, or in five in the extended form. -/
theorem OnTrack.response {s0 u : State} {p : Bytes} (hpass : evalValidator s0.cv p = true) (hlen : p.length ≤ 265)
    (h : OnTrack s0 0 (ackFrame ++ enc p) u) (hst : u.st = .wAck) (hread : Awaits 6 vAck u) :
    ∃ t, runEvents (List.replicate (if 255 < p.length then 5 else 4) .tick) u = .next t ∧
      Delivered s0 (if 255 < p.length then 5 else 4) p t := by
  by_cases hlong : 255 < p.length
  · rw [enc_of_length_ge hlong] at h
    rw [if_pos hlong]
    exact h.response_extended hpass hlen hst hread
  · rw [enc_of_length_le (Nat.not_lt.mp hlong)] at h
    rw [if_neg hlong]
    exact h.response_normal hpass (Nat.not_lt.mp hlong) hst hread

theorem length_enc_le {p : Bytes} (h : p.length ≤ 265) : (enc p).length ≤ 275 := by
  unfold enc
  split <;> simp <;> omega

/-- Settles O60: the chunk fits, and the frame is taken stage by stage. -/
theorem correctResponseIsDelivered : Obligations.CorrectResponseIsDelivered := by
  intro cmd p va v s s0 hlegal hq hacc hv hlen hpass hexec haccepted k good
  obtain ⟨v', hload, rfl⟩ := exec_accepted hexec haccepted
  obtain rfl := stands_unique hload hv
  let c : Bytes := ackFrame ++ enc p
  let start : State := startTxn cmd v' s
  let u : State := answer .none { answer .accepted start with acc := c, inq := [] }
  have hc : c.length ≤ 281 := by
    have henc := length_enc_le hlen
    simp only [c, List.length_append, ackFrame, List.length_cons, List.length_nil]
    omega
  have hchunk : step { answer .accepted start with inq := [.rx c] } = .next u := by
    rw [step_rx rfl, receive_of_clean (s := { answer .accepted start with inq := [] }) hlegal hacc hc]
  have htrack : OnTrack start 0 c u := ⟨rfl, rfl, rfl, rfl, rfl, rfl, fun _ => by simp [u, start, tickTime]⟩
  have hread : Awaits 6 vAck u := ⟨_, by simp only [u, start, answer_q, startTxn_q, hq]; rfl⟩
  obtain ⟨t, hrun, hdelivered⟩ := htrack.response hpass hlen rfl hread
  exact ⟨t, (runEvents_cons hchunk).trans hrun, hdelivered.st, hdelivered.res, hdelivered.evt, hdelivered.out, hdelivered.acc,
    hdelivered.q, hdelivered.accOvf, hdelivered.now⟩

end Sys2Proof.Machine
end
